-- ==== Sys2Proof/Word.lean ====
section
/-! DEFINITION. The widths of the block: everything is an unsigned bit field (spec/00_scope.md R6, R7). -/

namespace Sys2Proof

/-- One frame byte, and one target register address (R6 `ADDR_W`, R40). -/
abbrev Byte := BitVec 8

/-- A port mask (R6 `MASK_W`, R24). -/
abbrev Mask := BitVec 16

/-- The 48-bit payload field of the command word: six byte lanes (R60, R64). -/
abbrev Lanes := BitVec 48

/-- A command word (R6 `CMD_W`, R60). -/
abbrev CmdWord := BitVec 72

end Sys2Proof
end

