-- ==== Sys2Proof/Syntax.lean ====
section
/-! DEFINITION. The commands as syntax: the 15 kinds (spec/30_encoding.md R62), the payload shapes (R63), and one
constructor of `Instr` for each row of spec/opcode_table.json. -/

namespace Sys2Proof

/-- The closed enumeration of command kinds, in the order of their codes (R62). -/
inductive Kind where
  | setOutput | clearOutput | toggleOutput
  | startPwm | stopPwm
  | pwmFrequency | ledCurrent | pulsePeriod | colorsRgb
  | colorsRgbs
  | registerSetOutputs | registerClearOutputs | registerToggleOutputs
  | registerStartPwm | registerStopPwm
  deriving DecidableEq, Repr

/-- Every kind once, in the order of the codes (R62; `N_KINDS` = 15). -/
def Kind.all : List Kind :=
  [.setOutput, .clearOutput, .toggleOutput, .startPwm, .stopPwm, .pwmFrequency, .ledCurrent, .pulsePeriod, .colorsRgb,
   .colorsRgbs, .registerSetOutputs, .registerClearOutputs, .registerToggleOutputs, .registerStartPwm, .registerStopPwm]

/-- A payload's shape: its type and arity (R63). `reserved` carries one of the codes 5 to 15, which name no shape. -/
inductive Shape where
  | none
  | u8
  | u16
  | arr3
  | arr6
  | reserved (code : BitVec 4)
  deriving DecidableEq, Repr

/-- One command, as the decoder hands it on (R61): the kind is the constructor, and with it come the shape of the
payload supplied, the mask and the payload lanes, whether or not they suit the kind. One constructor for each row of
spec/opcode_table.json. -/
inductive Instr where
  | setOutput             (shape : Shape) (mask : Mask) (payload : Lanes)
  | clearOutput           (shape : Shape) (mask : Mask) (payload : Lanes)
  | toggleOutput          (shape : Shape) (mask : Mask) (payload : Lanes)
  | startPwm              (shape : Shape) (mask : Mask) (payload : Lanes)
  | stopPwm               (shape : Shape) (mask : Mask) (payload : Lanes)
  | pwmFrequency          (shape : Shape) (mask : Mask) (payload : Lanes)
  | ledCurrent            (shape : Shape) (mask : Mask) (payload : Lanes)
  | pulsePeriod           (shape : Shape) (mask : Mask) (payload : Lanes)
  | colorsRgb             (shape : Shape) (mask : Mask) (payload : Lanes)
  | colorsRgbs            (shape : Shape) (mask : Mask) (payload : Lanes)
  | registerSetOutputs    (shape : Shape) (mask : Mask) (payload : Lanes)
  | registerClearOutputs  (shape : Shape) (mask : Mask) (payload : Lanes)
  | registerToggleOutputs (shape : Shape) (mask : Mask) (payload : Lanes)
  | registerStartPwm      (shape : Shape) (mask : Mask) (payload : Lanes)
  | registerStopPwm       (shape : Shape) (mask : Mask) (payload : Lanes)
  deriving DecidableEq, Repr

/-- The command's kind. -/
def Instr.kind : Instr → Kind
  | .setOutput _ _ _ => .setOutput
  | .clearOutput _ _ _ => .clearOutput
  | .toggleOutput _ _ _ => .toggleOutput
  | .startPwm _ _ _ => .startPwm
  | .stopPwm _ _ _ => .stopPwm
  | .pwmFrequency _ _ _ => .pwmFrequency
  | .ledCurrent _ _ _ => .ledCurrent
  | .pulsePeriod _ _ _ => .pulsePeriod
  | .colorsRgb _ _ _ => .colorsRgb
  | .colorsRgbs _ _ _ => .colorsRgbs
  | .registerSetOutputs _ _ _ => .registerSetOutputs
  | .registerClearOutputs _ _ _ => .registerClearOutputs
  | .registerToggleOutputs _ _ _ => .registerToggleOutputs
  | .registerStartPwm _ _ _ => .registerStartPwm
  | .registerStopPwm _ _ _ => .registerStopPwm

/-- The shape of the payload supplied. -/
def Instr.shape : Instr → Shape
  | .setOutput sh _ _ | .clearOutput sh _ _ | .toggleOutput sh _ _ | .startPwm sh _ _ | .stopPwm sh _ _
  | .pwmFrequency sh _ _ | .ledCurrent sh _ _ | .pulsePeriod sh _ _ | .colorsRgb sh _ _ | .colorsRgbs sh _ _
  | .registerSetOutputs sh _ _ | .registerClearOutputs sh _ _ | .registerToggleOutputs sh _ _
  | .registerStartPwm sh _ _ | .registerStopPwm sh _ _ => sh

/-- The port mask. -/
def Instr.mask : Instr → Mask
  | .setOutput _ m _ | .clearOutput _ m _ | .toggleOutput _ m _ | .startPwm _ m _ | .stopPwm _ m _
  | .pwmFrequency _ m _ | .ledCurrent _ m _ | .pulsePeriod _ m _ | .colorsRgb _ m _ | .colorsRgbs _ m _
  | .registerSetOutputs _ m _ | .registerClearOutputs _ m _ | .registerToggleOutputs _ m _
  | .registerStartPwm _ m _ | .registerStopPwm _ m _ => m

/-- The payload lanes. -/
def Instr.payload : Instr → Lanes
  | .setOutput _ _ l | .clearOutput _ _ l | .toggleOutput _ _ l | .startPwm _ _ l | .stopPwm _ _ l
  | .pwmFrequency _ _ l | .ledCurrent _ _ l | .pulsePeriod _ _ l | .colorsRgb _ _ l | .colorsRgbs _ _ l
  | .registerSetOutputs _ _ l | .registerClearOutputs _ _ l | .registerToggleOutputs _ _ l
  | .registerStartPwm _ _ l | .registerStopPwm _ _ l => l

end Sys2Proof
end

