-- ==== Sys2Proof/WellFormed.lean ====
section
/-! DEFINITION. Which terms stand for a command word at all. The one thing the types leave open is the code a reserved
shape carries: it must be one of the codes 5 to 15 that name no shape (spec/30_encoding.md R63). A shape or a mask that
does not suit the kind is no defect of the term: the block takes such a command and answers it with a fault. -/

namespace Sys2Proof

/-- A reserved shape carries a reserved code (R63). -/
def Shape.wf : Shape → Bool
  | .reserved c => decide (5 ≤ c.toNat)
  | _ => true

/-- A command some command word stands for (R60, R63). -/
def Instr.wf (i : Instr) : Bool := i.shape.wf

end Sys2Proof
end

