-- ==== Sys2Proof/Decode.lean ====
section
/-! DEFINITION. From command words to commands and back (spec/30_encoding.md R60 to R66, spec/20_memory.md R46). -/

namespace Sys2Proof

/-- Why the decoder hands on no command. -/
inductive DecodeError where
  /-- The kind code is 15, which names no kind (R61, R62). -/
  | illegalKind (w : CmdWord)
  /-- Not the nine bytes of one command word (R46, R60: the word is 72 bits, fixed length). -/
  | notNineBytes
  deriving DecidableEq, Repr

/-! ### The fields of the word (R60) -/

/-- `cmd[71:68]`. -/
def kindField (w : CmdWord) : BitVec 4 := w.extractLsb' 68 4

/-- `cmd[67:64]`. -/
def shapeField (w : CmdWord) : BitVec 4 := w.extractLsb' 64 4

/-- `cmd[63:48]`. -/
def maskField (w : CmdWord) : Mask := w.extractLsb' 48 16

/-- `cmd[47:0]`. -/
def payloadField (w : CmdWord) : Lanes := w.extractLsb' 0 48

/-- The word whose four fields are these (R60). -/
def packWord (kind shape : BitVec 4) (mask : Mask) (payload : Lanes) : CmdWord := kind ++ shape ++ mask ++ payload

/-! ### The code tables (R62, R63) -/

/-- The code of a kind (R62). -/
def Kind.code : Kind → BitVec 4
  | .setOutput => 0
  | .clearOutput => 1
  | .toggleOutput => 2
  | .startPwm => 3
  | .stopPwm => 4
  | .pwmFrequency => 5
  | .ledCurrent => 6
  | .pulsePeriod => 7
  | .colorsRgb => 8
  | .colorsRgbs => 9
  | .registerSetOutputs => 10
  | .registerClearOutputs => 11
  | .registerToggleOutputs => 12
  | .registerStartPwm => 13
  | .registerStopPwm => 14

/-- The kind a code names; 15 names none (R62). -/
def kindOfCode (c : BitVec 4) : Option Kind :=
  match c.toNat with
  | 0 => some .setOutput
  | 1 => some .clearOutput
  | 2 => some .toggleOutput
  | 3 => some .startPwm
  | 4 => some .stopPwm
  | 5 => some .pwmFrequency
  | 6 => some .ledCurrent
  | 7 => some .pulsePeriod
  | 8 => some .colorsRgb
  | 9 => some .colorsRgbs
  | 10 => some .registerSetOutputs
  | 11 => some .registerClearOutputs
  | 12 => some .registerToggleOutputs
  | 13 => some .registerStartPwm
  | 14 => some .registerStopPwm
  | _ => none

/-- The code of a shape (R63). -/
def Shape.code : Shape → BitVec 4
  | .none => 0
  | .u8 => 1
  | .u16 => 2
  | .arr3 => 3
  | .arr6 => 4
  | .reserved c => c

/-- The shape a code names; 5 to 15 are reserved (R63). -/
def shapeOfCode (c : BitVec 4) : Shape :=
  match c.toNat with
  | 0 => .none
  | 1 => .u8
  | 2 => .u16
  | 3 => .arr3
  | 4 => .arr6
  | _ => .reserved c

/-- How many payload bytes, and so payload lanes, a shape has (R63); a reserved shape has none. -/
def Shape.byteCount : Shape → Nat
  | .none => 0
  | .u8 => 1
  | .u16 => 2
  | .arr3 => 3
  | .arr6 => 6
  | .reserved _ => 0

/-! ### Decoding -/

/-- The command of a kind with these fields. -/
def instrOf (k : Kind) (sh : Shape) (m : Mask) (l : Lanes) : Instr :=
  match k with
  | .setOutput => .setOutput sh m l
  | .clearOutput => .clearOutput sh m l
  | .toggleOutput => .toggleOutput sh m l
  | .startPwm => .startPwm sh m l
  | .stopPwm => .stopPwm sh m l
  | .pwmFrequency => .pwmFrequency sh m l
  | .ledCurrent => .ledCurrent sh m l
  | .pulsePeriod => .pulsePeriod sh m l
  | .colorsRgb => .colorsRgb sh m l
  | .colorsRgbs => .colorsRgbs sh m l
  | .registerSetOutputs => .registerSetOutputs sh m l
  | .registerClearOutputs => .registerClearOutputs sh m l
  | .registerToggleOutputs => .registerToggleOutputs sh m l
  | .registerStartPwm => .registerStartPwm sh m l
  | .registerStopPwm => .registerStopPwm sh m l

/-- Stage 0, the decoder (R61, R90): it takes the four fields out of the word and does nothing else. Whether the shape
and the mask suit the kind is for the later stages. -/
def decode (w : CmdWord) : Except DecodeError Instr :=
  match kindOfCode (kindField w) with
  | none => .error (.illegalKind w)
  | some k => .ok (instrOf k (shapeOfCode (shapeField w)) (maskField w) (payloadField w))

/-- The word nine bytes carry, least significant byte first: byte `k` is `cmd[8k+7:8k]` (R46). -/
def wordOfBytes : List Byte → Option CmdWord
  | [b0, b1, b2, b3, b4, b5, b6, b7, b8] => some (b8 ++ b7 ++ b6 ++ b5 ++ b4 ++ b3 ++ b2 ++ b1 ++ b0)
  | _ => none

/-- The nine bytes that carry a word, least significant byte first (R46). -/
def bytesOfWord (w : CmdWord) : List Byte := (List.range 9).map fun k => w.extractLsb' (8 * k) 8

/-- The decoder on a host's bytes, total: nine bytes are one command word (R46), anything else is rejected. -/
def decodeBytes (bs : List Byte) : Except DecodeError Instr :=
  match wordOfBytes bs with
  | some w => decode w
  | none => .error .notNineBytes

/-- The command of the word whose bits are `w`, numbered as spec/opcode_table.json numbers them: bit `i` of the number
is `cmd[i]` (R7, R60). The bits above `nbits` are 0; a longer word than 72 bits is no command word. -/
def decodeTableWord (nbits w : Nat) : Option Instr :=
  if nbits ≤ 72 then (decode (BitVec.ofNat 72 (w % 2 ^ nbits))).toOption else none

/-! ### Encoding -/

/-- The word of a command, every field written as R60 places it. -/
def encode (i : Instr) : CmdWord := packWord i.kind.code i.shape.code i.mask i.payload

/-- The register-direct kinds do not read the mask field (R65). -/
def Kind.ignoresMask (k : Kind) : Bool := decide (9 ≤ k.code.toNat)

/-- The canonical form of a command: the payload lanes above the shape's byte count are zero (R64), and so is the mask
of a kind that ignores it (R65). -/
def Instr.canonical (i : Instr) : Bool :=
  decide (i.payload.toNat < 2 ^ (8 * i.shape.byteCount)) && (!i.kind.ignoresMask || i.mask == 0)

end Sys2Proof
end

