-- ==== Sys2Proof/Config.lean ====
section
/-! DEFINITION. The ports and the parameters of one instance of the block (spec/00_scope.md R6, spec/10_state.md R25).
The spec wants every parameter to be "an argument with the default shown": here are their types and the limits the
spec puts on them; the default values stand in Machine/Tables.lean. -/

namespace Sys2Proof

/-- The 14 ports, in the order the spec lists them (R25). -/
inductive Port where
  | pokeLed0 | pokeLed1 | pokeLed2
  | pokeValve0 | pokeValve1 | pokeValve2
  | led0 | led1
  | rgb0 | rgb1
  | digital0 | digital1 | digital2 | digital3
  deriving DecidableEq, Repr

/-- Every port once, in the spec's order (R25; `N_PORTS` = 14). -/
def Port.all : List Port :=
  [.pokeLed0, .pokeLed1, .pokeLed2, .pokeValve0, .pokeValve1, .pokeValve2, .led0, .led1, .rgb0, .rgb1,
   .digital0, .digital1, .digital2, .digital3]

/-- The configuration table `PORT_BIT` (R6, R25): the bit value of each port. -/
structure PortTable where
  pokeLed0   : Mask
  pokeLed1   : Mask
  pokeLed2   : Mask
  pokeValve0 : Mask
  pokeValve1 : Mask
  pokeValve2 : Mask
  led0       : Mask
  led1       : Mask
  rgb0       : Mask
  rgb1       : Mask
  digital0   : Mask
  digital1   : Mask
  digital2   : Mask
  digital3   : Mask
  deriving DecidableEq, Repr

/-- `PORT_BIT[p]` (R6). -/
def PortTable.bit (t : PortTable) : Port → Mask
  | .pokeLed0 => t.pokeLed0
  | .pokeLed1 => t.pokeLed1
  | .pokeLed2 => t.pokeLed2
  | .pokeValve0 => t.pokeValve0
  | .pokeValve1 => t.pokeValve1
  | .pokeValve2 => t.pokeValve2
  | .led0 => t.led0
  | .led1 => t.led1
  | .rgb0 => t.rgb0
  | .rgb1 => t.rgb1
  | .digital0 => t.digital0
  | .digital1 => t.digital1
  | .digital2 => t.digital2
  | .digital3 => t.digital3

/-- What the source fixes of `PORT_BIT` (R25): every value is one bit among bits 0 to 13 (bits 14 and 15 name no port,
R24), no two ports share a value, `PokeLed0` = 1, `Digital0` = 1024, `Digital2` = 4096, and `Digital1`, `Digital3` are
2048 and 8192 in one order or the other. -/
abbrev PortTable.Wf (t : PortTable) : Prop :=
  (∀ p ∈ Port.all, ∃ i : Fin 14, t.bit p = BitVec.twoPow 16 i) ∧
  (∀ p ∈ Port.all, ∀ q ∈ Port.all, t.bit p = t.bit q → p = q) ∧
  t.pokeLed0 = 1 ∧ t.digital0 = 1024 ∧ t.digital2 = 4096 ∧
  ((t.digital1 = 2048 ∧ t.digital3 = 8192) ∨ (t.digital1 = 8192 ∧ t.digital3 = 2048))

/-- The parameters of one instance (R6). They are constants of the instance: no command changes them (R201). -/
structure Params where
  /-- `PORT_BIT` (R6, R25). -/
  ports : PortTable
  /-- `TAG_U8`, the payload type tag of the 8-bit and both array forms (R71). -/
  tagU8 : Byte
  /-- `TAG_U16`, the payload type tag of the 16-bit form (R71). -/
  tagU16 : Byte
  /-- `SYNC_ENC`, the byte that stands for the Boolean `true` of frame element 0 where bytes are wanted (R69). -/
  syncEnc : Byte
  /-- `LEN_ARR6`, the length element of the 6-byte frame (R75). -/
  lenArr6 : Byte
  /-- `ADDR_COLORS_RGBS`, the register of ColorsRgbs (R155). -/
  addrColorsRgbs : Byte
  /-- `ADDR_PULSE_DIGITAL3`, the register of PulsePeriod for `Digital3` (R132). -/
  addrPulseDigital3 : Byte
  deriving DecidableEq, Repr

/-- The limits the spec puts on the parameters: the port table's (R25), and that the two tags differ (R6, R71). -/
abbrev Params.Wf (p : Params) : Prop := p.ports.Wf ∧ p.tagU8 ≠ p.tagU16

end Sys2Proof
end

