-- ==== Sys2Proof/Machine/Tables.lean ====
section
/-! DEFINITION. The spec's tables: parameter defaults (spec/00_scope.md R6, spec/10_state.md R25), the target registers
(R27), and, by kind, the required shape, the legality class, the allowed ports and the register addresses
(spec/40_pipeline.md R91, R92, R93, R96). -/

namespace Sys2Proof.Machine

/-! ### Defaults of the parameters -/

/-- `PORT_BIT`'s default (R25). `PokeLed0`, `Digital0` and `Digital2` are the source's; nine values are the spec's own
choice, and so is which of 2048 and 8192 is `Digital1` and which `Digital3` (UNVERIFIED, assumption 10). -/
def defaultPorts : PortTable where
  pokeLed0 := 1
  pokeLed1 := 2
  pokeLed2 := 4
  pokeValve0 := 8
  pokeValve1 := 16
  pokeValve2 := 32
  led0 := 64
  led1 := 128
  rgb0 := 256
  rgb1 := 512
  digital0 := 1024
  digital1 := 2048
  digital2 := 4096
  digital3 := 8192

/-- The parameters at their defaults (R6). The tags are general knowledge (PRESUMED, assumption 5); `SYNC_ENC`,
`LEN_ARR6`, `ADDR_COLORS_RGBS`, `ADDR_PULSE_DIGITAL3` are assumptions 6 to 9. -/
def defaultParams : Params where
  ports := defaultPorts
  tagU8 := 1
  tagU16 := 2
  syncEnc := 1
  lenArr6 := 10
  addrColorsRgbs := 46
  addrPulseDigital3 := 71

/-! ### Named sets of ports (R26) -/

/-- `DIGITAL_ALL`, the union of the four Digital ports: 15360 = 0x3C00. The source fixes it whichever of the two is
`Digital1` (R25, R26). -/
def digitalAll : Mask := 0x3C00

/-- `PORTS_ALL`, the union of all 14 ports: 16383 = 0x3FFF (R26). -/
def portsAll : Mask := 0x3FFF

/-- The four Digital ports. -/
def digitalPorts : List Port := [.digital0, .digital1, .digital2, .digital3]

/-! ### By kind: shape, class, ports, addresses -/

/-- `SHAPE_OF[kind]`, the one shape a kind accepts (R91). -/
def requiredShape : Kind → Shape
  | .setOutput | .clearOutput | .toggleOutput | .startPwm | .stopPwm => .none
  | .pwmFrequency | .pulsePeriod | .registerSetOutputs | .registerClearOutputs | .registerToggleOutputs => .u16
  | .ledCurrent | .registerStartPwm | .registerStopPwm => .u8
  | .colorsRgb => .arr3
  | .colorsRgbs => .arr6

/-- The four legality classes (R92). -/
inductive LegalityClass where
  | multiSelect
  | rangeRestricted
  | exactlyOne
  | registerDirect
  deriving DecidableEq, Repr

/-- The class of each kind (R92). -/
def legalityClass : Kind → LegalityClass
  | .setOutput | .clearOutput | .toggleOutput => .multiSelect
  | .startPwm | .stopPwm => .rangeRestricted
  | .pwmFrequency | .ledCurrent | .pulsePeriod | .colorsRgb => .exactlyOne
  | .registerSetOutputs | .registerClearOutputs | .registerToggleOutputs | .registerStartPwm | .registerStopPwm
  | .colorsRgbs => .registerDirect

/-- `ALLOWED[kind]`, the ports an exactly-one-of-N kind accepts (R93, R130); empty for the other kinds. -/
def allowedPorts : Kind → List Port
  | .pwmFrequency => digitalPorts
  | .ledCurrent => [.led0, .led1]
  | .pulsePeriod => Port.all
  | .colorsRgb => [.rgb0, .rgb1]
  | .setOutput | .clearOutput | .toggleOutput | .startPwm | .stopPwm | .colorsRgbs
  | .registerSetOutputs | .registerClearOutputs | .registerToggleOutputs | .registerStartPwm | .registerStopPwm => []

/-- The address of a kind whose address is fixed by the kind alone (R96). -/
def fixedAddress (p : Params) : Kind → Option Byte
  | .setOutput | .registerSetOutputs => some 34
  | .clearOutput | .registerClearOutputs => some 35
  | .toggleOutput | .registerToggleOutputs => some 36
  | .startPwm | .registerStartPwm => some 81
  | .stopPwm | .registerStopPwm => some 82
  | .colorsRgbs => some p.addrColorsRgbs
  | .pwmFrequency | .ledCurrent | .pulsePeriod | .colorsRgb => none

/-- The mask-indexed table, one row a port: the address for each kind whose address the mask selects, or no address (the
dashes of R96). -/
def portAddress (p : Params) (k : Kind) (q : Port) : Option Byte :=
  match k, q with
  | .pulsePeriod, .pokeLed0 => some 59
  | .pulsePeriod, .pokeLed1 => some 60
  | .pulsePeriod, .pokeLed2 => some 61
  | .pulsePeriod, .pokeValve0 => some 62
  | .pulsePeriod, .pokeValve1 => some 63
  | .pulsePeriod, .pokeValve2 => some 64
  | .pulsePeriod, .led0 => some 65
  | .pulsePeriod, .led1 => some 66
  | .pulsePeriod, .rgb0 => some 67
  | .pulsePeriod, .rgb1 => some 68
  | .pulsePeriod, .digital0 => some 69
  | .pulsePeriod, .digital1 => some 70
  | .pulsePeriod, .digital2 => some 71
  | .pulsePeriod, .digital3 => some p.addrPulseDigital3
  | .ledCurrent, .led0 => some 86
  | .ledCurrent, .led1 => some 86
  | .colorsRgb, .rgb0 => some 84
  | .colorsRgb, .rgb1 => some 85
  | .pwmFrequency, .digital0 => some 73
  | .pwmFrequency, .digital1 => some 74
  | .pwmFrequency, .digital2 => some 75
  | .pwmFrequency, .digital3 => some 76
  | _, _ => none

/-! ### The target registers (R27, R42) -/

/-- One register of the external device, as far as the block knows it (R27): the spec's label, its address, whether the
frame carries the tag `U16`, and how many payload bytes are written. -/
structure TargetRegister where
  label  : String
  addr   : Byte
  is16   : Bool
  nBytes : Nat
  deriving DecidableEq, Repr

/-- The registers a frame can name (R27). `PULSE_DIGITAL3` is the cell `ADDR_PULSE_DIGITAL3`: with its default, 71, it
is the register of `Digital2`, and the addresses are the 26 of R42. -/
def targetRegisters (p : Params) : List TargetRegister :=
  [⟨"OUT_SET", 34, true, 2⟩, ⟨"OUT_CLEAR", 35, true, 2⟩, ⟨"OUT_TOGGLE", 36, true, 2⟩,
   ⟨"RGBS", p.addrColorsRgbs, false, 6⟩] ++
  [⟨"PULSE_POKELED0", 59, true, 2⟩, ⟨"PULSE_POKELED1", 60, true, 2⟩, ⟨"PULSE_POKELED2", 61, true, 2⟩,
   ⟨"PULSE_POKEVALVE0", 62, true, 2⟩, ⟨"PULSE_POKEVALVE1", 63, true, 2⟩, ⟨"PULSE_POKEVALVE2", 64, true, 2⟩,
   ⟨"PULSE_LED0", 65, true, 2⟩, ⟨"PULSE_LED1", 66, true, 2⟩, ⟨"PULSE_RGB0", 67, true, 2⟩, ⟨"PULSE_RGB1", 68, true, 2⟩,
   ⟨"PULSE_DIGITAL0", 69, true, 2⟩, ⟨"PULSE_DIGITAL1", 70, true, 2⟩, ⟨"PULSE_DIGITAL2", 71, true, 2⟩,
   ⟨"PULSE_DIGITAL3", p.addrPulseDigital3, true, 2⟩] ++
  [⟨"PWMFREQ_DIGITAL0", 73, true, 2⟩, ⟨"PWMFREQ_DIGITAL1", 74, true, 2⟩, ⟨"PWMFREQ_DIGITAL2", 75, true, 2⟩,
   ⟨"PWMFREQ_DIGITAL3", 76, true, 2⟩] ++
  [⟨"PWM_START", 81, false, 1⟩, ⟨"PWM_STOP", 82, false, 1⟩, ⟨"RGB0", 84, false, 3⟩, ⟨"RGB1", 85, false, 3⟩,
   ⟨"LED_CURRENT", 86, false, 1⟩]

end Sys2Proof.Machine
end

