-- ==== Sys2Proof/Machine/State.lean ====
section
/-! DEFINITION. The state. The block keeps nothing between commands (spec/10_state.md R20 to R23): what stands here is its
interface (R28), the record of a run (R21, spec/70_reset_and_hazards.md R207) and the constants of the instance
(spec/00_scope.md R6, R201). -/

namespace Sys2Proof.Machine

/-- One element of a frame (spec/30_encoding.md R69): the Boolean `true` that stands first, or a byte. -/
inductive Element where
  /-- `F[0]`, the Boolean element whose only value is `true`. -/
  | sync
  | byte (b : Byte)
  deriving DecidableEq, Repr

/-- A frame: an ordered sequence of elements (R69). The empty sequence is "no frame" (R28). -/
abbrev Frame := List Element

/-- The value of the `status` port (R28, spec/60_exceptions.md R171). -/
inductive Status where
  | ok
  | invalidPayloadShape
  | invalidMaskSelection
  | illegalKind
  deriving DecidableEq, Repr

/-- A command's fault, with the info the spec lets a model attach to it (R171). Only the status code leaves the block. -/
inductive CommandFault where
  /-- The payload's shape is not the kind's (R172). -/
  | invalidPayloadShape (kind : Kind) (shape : Shape)
  /-- The mask is not legal for the kind (R173). -/
  | invalidMaskSelection (kind : Kind) (mask : Mask)
  /-- The kind code names no kind (R174). -/
  | illegalKind (word : CmdWord)
  deriving DecidableEq, Repr

/-- The result of one command: a frame or a fault, never both (spec/40_pipeline.md R90). -/
inductive Result where
  | ok (f : Frame)
  | fault (x : CommandFault)
  deriving DecidableEq, Repr

/-- The machine.
 * `cmds`: the command words the host has presented, the next one first (port `cmd`, R28; R207).
 * `status`, `frame`: the output ports (R28), holding the last command's result (assumption 3); before the first
   command no status has been produced and no frame (R200).
 * `results`: the outcome of the run so far, oldest first (R207).
 * `ci`: the host's stream index (R21).
 * `params`: the constants of the instance (R6, R201; assumption 4). -/
structure State where
  cmds    : List CmdWord
  status  : Option Status
  frame   : Frame
  results : List Result
  ci      : Nat
  params  : Params
  deriving DecidableEq, Repr

/-- What stops the step. A command's own fault is not among these: it is the result of that command, and the machine
goes on (spec/60_exceptions.md R176, R177). -/
inductive Fault where
  /-- Raised by the step when the host presents no command: the end of a run, where the block has nothing to do (R207).
  Safe: the model stops where the hardware only waits (assumption 2). -/
  | noCommand
  deriving DecidableEq, Repr

/-- What the model has no meaning for. -/
inductive Refusal where
  /-- Raised by an arm of `exec` whose instruction has no meaning yet. No arm raises it: every kind is modelled. Safe. -/
  | notModelled (mnemonic : String)
  deriving DecidableEq, Repr

/-- The machine right after reset (R29, R200): no command presented, no result produced, `ci` = 0, the parameters at
their defaults (R6). -/
def State.reset : State where
  cmds := []
  status := none
  frame := []
  results := []
  ci := 0
  params := defaultParams

end Sys2Proof.Machine
end

