-- ==== Sys2Proof/Machine/Flags.lean ====
section
/-! DEFINITION. The block has no flags and no condition codes (spec/10_state.md R22). What a command reports besides its
frame is the status on its output port: the codes, and the status and message of each fault
(spec/60_exceptions.md R171 to R173). -/

namespace Sys2Proof.Machine

/-- The 2-bit code of a status (R28, R171). -/
def Status.code : Status → BitVec 2
  | .ok => 0
  | .invalidPayloadShape => 1
  | .invalidMaskSelection => 2
  | .illegalKind => 3

/-- The status a fault reports (R171). -/
def CommandFault.status : CommandFault → Status
  | .invalidPayloadShape _ _ => .invalidPayloadShape
  | .invalidMaskSelection _ _ => .invalidMaskSelection
  | .illegalKind _ => .illegalKind

/-- The message text of a fault: the source gives one, for the range-restricted kinds' masks (R120, R173), and none for
any other fault (U14). -/
def CommandFault.message? : CommandFault → Option String
  | .invalidMaskSelection .startPwm _ => some "only Digital0..Digital3 may be selected"
  | .invalidMaskSelection .stopPwm _ => some "only Digital0..Digital3 may be selected"
  | _ => none

/-- The frame of a result that has one. -/
def Result.frame? : Result → Option Frame
  | .ok f => some f
  | .fault _ => none

/-- The status of a result (R171). -/
def Result.status : Result → Status
  | .ok _ => .ok
  | .fault x => x.status

end Sys2Proof.Machine
end

