-- ==== Sys2Proof/Machine/Frame.lean ====
section
/-! DEFINITION. The register-payload serializer and the readers of what it writes (spec/30_encoding.md R69 to R78,
spec/20_memory.md R44, R45, R48). -/

namespace Sys2Proof.Machine

/-- `lo8(v)` (spec/00_scope.md R8). -/
def lo8 (v : BitVec 16) : Byte := v.extractLsb' 0 8

/-- `hi8(v)` (R8). -/
def hi8 (v : BitVec 16) : Byte := v.extractLsb' 8 8

/-- The fixed fields of every frame around its payload bytes (R70): the sync element, 2, the length, the register
address, the source id 255, the tag, the payload, the checksum slot 0. -/
def layFrame (len addr tag : Byte) (payload : List Byte) : Frame :=
  .sync :: ([2, len, addr, 255, tag] ++ payload ++ [0]).map .byte

/-- `Frame8(addr, v)` (R72). -/
def frame8 (p : Params) (addr v : Byte) : Frame := layFrame 5 addr p.tagU8 [v]

/-- `Frame16(addr, v)` (R73): the low byte first (R44). -/
def frame16 (p : Params) (addr : Byte) (v : BitVec 16) : Frame := layFrame 6 addr p.tagU16 [lo8 v, hi8 v]

/-- `FrameArr3(addr, b0, b1, b2)` (R74): index order (R45). -/
def frameArr3 (p : Params) (addr b0 b1 b2 : Byte) : Frame := layFrame 7 addr p.tagU8 [b0, b1, b2]

/-- `FrameArr6(addr, b0, ..., b5)` (R75): index order (R45). -/
def frameArr6 (p : Params) (addr b0 b1 b2 b3 b4 b5 : Byte) : Frame :=
  layFrame p.lenArr6 addr p.tagU8 [b0, b1, b2, b3, b4, b5]

/-! ### Reading a frame -/

/-- An element as a byte, `F[0]` rendered as `SYNC_ENC` (R69). -/
def Element.render (p : Params) : Element → Byte
  | .sync => p.syncEnc
  | .byte b => b

/-- A frame as a homogeneous byte list (R69). -/
def frameBytes (p : Params) (f : Frame) : List Byte := f.map (Element.render p)

/-- The byte an element holds. -/
def Element.byte? : Element → Option Byte
  | .sync => none
  | .byte b => some b

/-- The first frame of a stream of elements and what follows it: the frame ends `F[2]` elements after `F[2]` (R77). -/
def readFrame (es : List Element) : Option (Frame × List Element) :=
  match es with
  | .sync :: .byte m :: .byte len :: rest =>
    if len.toNat ≤ rest.length then
      some (.sync :: .byte m :: .byte len :: rest.take len.toNat, rest.drop len.toNat)
    else none
  | _ => none

/-- The write a frame asks the external device for: `MemWrite(addr, n, bytes)` with `n` the number of bytes (R8, R100). -/
structure WriteRequest where
  addr  : Byte
  bytes : List Byte
  deriving DecidableEq, Repr

/-- The request a frame carries (R100): the address of `F[3]` and the payload bytes between the tag and the checksum
slot. -/
def frameRequest (f : Frame) : Option WriteRequest :=
  match f with
  | .sync :: .byte _ :: .byte _ :: .byte addr :: .byte _ :: .byte _ :: rest =>
    (rest.dropLast.mapM Element.byte?).map fun bs => ⟨addr, bs⟩
  | _ => none

end Sys2Proof.Machine
end

