-- ==== Sys2Proof/Machine/Operands.lean ====
section
/-! DEFINITION. The operand forms (spec/30_encoding.md R64, R68) and the mask's legality and its use as a table key
(spec/40_pipeline.md R93, R96): the mask whole, shifted, or as a key; an integer payload; an array payload's lanes. -/

namespace Sys2Proof.Machine

/-! ### Payload (R63, R64, R68) -/

/-- Lane `i` of the payload, `payload[8i+7:8i]` (R64): the array element `b_i`. -/
def lane (l : Lanes) (i : Nat) : Byte := l.extractLsb' (8 * i) 8

/-- The integer payload of shape `U8`, `payload[7:0]` (R63). -/
def payloadU8 (l : Lanes) : BitVec 8 := l.extractLsb' 0 8

/-- The integer payload of shape `U16`, `payload[15:0]` (R63). -/
def payloadU16 (l : Lanes) : BitVec 16 := l.extractLsb' 0 16

/-! ### Mask -/

/-- A mask from a selection of ports: their bits OR-ed together, 0 for the empty selection (spec/10_state.md R26). -/
def maskOfPorts (t : PortTable) (ps : List Port) : Mask := (ps.map t.bit).foldr (· ||| ·) 0

/-- `LegalRange(m)`: a non-empty subset of the four Digital ports (spec/42_range_restricted.md R120). The subset test,
not the looser numeric range (90_conflicts.md C2; assumption 11). -/
def legalRange (m : Mask) : Bool := m != 0 && (m &&& ~~~digitalAll) == 0

/-- `(mask >> 10)[7:0]`: the mask as a per-channel bit field (R97, R120). -/
def pwmBits (m : Mask) : Byte := (m >>> 10).extractLsb' 0 8

/-- The address a table of ports gives a mask: the row of the port whose constant equals the whole mask, or none
(spec/43_exactly_one.md R130). The first such row, should a table not keep the ports apart (assumption 17). -/
def lookupPort (t : PortTable) (rows : List (Port × Byte)) (m : Mask) : Option Byte :=
  match rows with
  | [] => none
  | (q, addr) :: rest => if m = t.bit q then some addr else lookupPort t rest m

end Sys2Proof.Machine
end

