-- ==== Sys2Proof/Machine/Ops.lean ====
section
/-! DEFINITION. The operations every command goes through (spec/40_pipeline.md R90): taking a command, emitting a frame,
ending in a fault, and the checks of the stages between. -/

namespace Sys2Proof.Machine

/-- What one step answers. -/
abbrev Answer := Host.Outcome State Fault Refusal

/-- The host's next command is taken from the port (R206). -/
def State.takeCommand (s : State) (rest : List CmdWord) : State := { s with cmds := rest }

/-- `Emit(F)`, the block's only effect (R8): status `OK`, the frame handed on whole (R49), one result more on record
(R207), one command more counted (R21). -/
def State.emit (s : State) (f : Frame) : State :=
  { s with status := some .ok, frame := f, results := s.results ++ [.ok f], ci := s.ci + 1 }

/-- Fault entry, the one for every fault (spec/60_exceptions.md R176): the status takes the fault's code, no frame is
emitted, nothing is saved, no mode changes, no handler is entered; the command counts as any other (R21). There is no
return to stand beside it: the next command is processed as if this one had never been presented (R177). -/
def State.takeFault (s : State) (x : CommandFault) : State :=
  { s with status := some x.status, frame := [], results := s.results ++ [.fault x], ci := s.ci + 1 }

/-- Stage 1, construction (R91): unless the payload's shape is the one the kind requires, `InvalidPayloadShape`. -/
def construct (k : Kind) (required sh : Shape) (s : State) (next : Answer) : Answer :=
  if sh = required then next else .next (s.takeFault (.invalidPayloadShape k sh))

/-- Stage 2, validation by a predicate on the mask (R93): unless it is legal, `InvalidMaskSelection`. -/
def validate (k : Kind) (m : Mask) (legal : Bool) (s : State) (next : Answer) : Answer :=
  if legal then next else .next (s.takeFault (.invalidMaskSelection k m))

/-- Stages 2 and 3 of the exactly-one-of-N kinds: the address the kind's table gives the mask, or, where no row has the
mask, `InvalidMaskSelection` (R130). -/
def resolveMask (k : Kind) (rows : List (Port × Byte)) (m : Mask) (s : State) (next : Byte → Answer) : Answer :=
  match lookupPort s.params.ports rows m with
  | some addr => next addr
  | none => .next (s.takeFault (.invalidMaskSelection k m))

/-- The frames emitted so far, in order: a fault leaves a gap, not a placeholder (R51). -/
def State.frameStream (s : State) : List Frame := s.results.filterMap Result.frame?

/-- The statuses reported so far, in order (R207). -/
def State.statusList (s : State) : List Status := s.results.map Result.status

/-- The writes asked for so far, in order (R100). -/
def State.requests (s : State) : List WriteRequest := s.frameStream.filterMap frameRequest

end Sys2Proof.Machine
end

