-- ==== Sys2Proof/Machine/ExactlyOne.lean ====
section
/-! DEFINITION. The exactly-one-of-N kinds (spec/43_exactly_one.md R130): the whole mask equals one allowed port's
constant, and the payload goes, unchecked, to the register that port selects. -/

namespace Sys2Proof.Machine

/-- PwmFrequency's register table (R131). -/
def pwmFrequencyRows : List (Port × Byte) := [(.digital0, 73), (.digital1, 74), (.digital2, 75), (.digital3, 76)]

/-- PulsePeriod's register table (R132). `Digital2` and `Digital3` share 71 unless `ADDR_PULSE_DIGITAL3` says
otherwise (assumption 9). -/
def pulsePeriodRows (p : Params) : List (Port × Byte) :=
  [(.pokeLed0, 59), (.pokeLed1, 60), (.pokeLed2, 61), (.pokeValve0, 62), (.pokeValve1, 63), (.pokeValve2, 64),
   (.led0, 65), (.led1, 66), (.rgb0, 67), (.rgb1, 68), (.digital0, 69), (.digital1, 70), (.digital2, 71),
   (.digital3, p.addrPulseDigital3)]

/-- LedCurrent's register table (R133): both ports map to 86. -/
def ledCurrentRows : List (Port × Byte) := [(.led0, 86), (.led1, 86)]

/-- ColorsRgb's register table (R134). -/
def colorsRgbRows : List (Port × Byte) := [(.rgb0, 84), (.rgb1, 85)]

/-- PwmFrequency (R131). -/
def execPwmFrequency (sh : Shape) (m : Mask) (l : Lanes) (s : State) : Answer :=
  construct .pwmFrequency .u16 sh s <|
    resolveMask .pwmFrequency pwmFrequencyRows m s fun addr =>
      .next (s.emit (frame16 s.params addr (payloadU16 l)))

/-- PulsePeriod (R132). -/
def execPulsePeriod (sh : Shape) (m : Mask) (l : Lanes) (s : State) : Answer :=
  construct .pulsePeriod .u16 sh s <|
    resolveMask .pulsePeriod (pulsePeriodRows s.params) m s fun addr =>
      .next (s.emit (frame16 s.params addr (payloadU16 l)))

/-- LedCurrent (R133). -/
def execLedCurrent (sh : Shape) (m : Mask) (l : Lanes) (s : State) : Answer :=
  construct .ledCurrent .u8 sh s <|
    resolveMask .ledCurrent ledCurrentRows m s fun addr =>
      .next (s.emit (frame8 s.params addr (payloadU8 l)))

/-- ColorsRgb (R134). -/
def execColorsRgb (sh : Shape) (m : Mask) (l : Lanes) (s : State) : Answer :=
  construct .colorsRgb .arr3 sh s <|
    resolveMask .colorsRgb colorsRgbRows m s fun addr =>
      .next (s.emit (frameArr3 s.params addr (lane l 0) (lane l 1) (lane l 2)))

end Sys2Proof.Machine
end

