-- ==== Sys2Proof/Machine/MultiSelect.lean ====
section
/-! DEFINITION. The multi-select kinds (spec/41_multi_select.md R110): any mask, written whole as a 16-bit payload to a
fixed register. -/

namespace Sys2Proof.Machine

/-- SetOutput (R111). -/
def execSetOutput (sh : Shape) (m : Mask) (_l : Lanes) (s : State) : Answer :=
  construct .setOutput .none sh s <| .next (s.emit (frame16 s.params 34 m))

/-- ClearOutput (R112). The mask is written as given, not complemented. -/
def execClearOutput (sh : Shape) (m : Mask) (_l : Lanes) (s : State) : Answer :=
  construct .clearOutput .none sh s <| .next (s.emit (frame16 s.params 35 m))

/-- ToggleOutput (R113). -/
def execToggleOutput (sh : Shape) (m : Mask) (_l : Lanes) (s : State) : Answer :=
  construct .toggleOutput .none sh s <| .next (s.emit (frame16 s.params 36 m))

end Sys2Proof.Machine
end

