-- ==== Sys2Proof/Machine/RangeRestricted.lean ====
section
/-! DEFINITION. The range-restricted kinds (spec/42_range_restricted.md R120): a non-empty subset of the Digital ports,
shifted right by 10 and written as an 8-bit payload to a fixed register. -/

namespace Sys2Proof.Machine

/-- StartPwm (R121). -/
def execStartPwm (sh : Shape) (m : Mask) (_l : Lanes) (s : State) : Answer :=
  construct .startPwm .none sh s <|
    validate .startPwm m (legalRange m) s <| .next (s.emit (frame8 s.params 81 (pwmBits m)))

/-- StopPwm (R122). -/
def execStopPwm (sh : Shape) (m : Mask) (_l : Lanes) (s : State) : Answer :=
  construct .stopPwm .none sh s <|
    validate .stopPwm m (legalRange m) s <| .next (s.emit (frame8 s.params 82 (pwmBits m)))

end Sys2Proof.Machine
end

