-- ==== Sys2Proof/Machine/RegisterDirect.lean ====
section
/-! DEFINITION. The register-direct kinds (spec/44_register_direct.md R156): no mask is consulted, the raw payload is
written to a fixed register. -/

namespace Sys2Proof.Machine

/-- RegisterSetOutputs (R150). -/
def execRegisterSetOutputs (sh : Shape) (_m : Mask) (l : Lanes) (s : State) : Answer :=
  construct .registerSetOutputs .u16 sh s <| .next (s.emit (frame16 s.params 34 (payloadU16 l)))

/-- RegisterClearOutputs (R151). -/
def execRegisterClearOutputs (sh : Shape) (_m : Mask) (l : Lanes) (s : State) : Answer :=
  construct .registerClearOutputs .u16 sh s <| .next (s.emit (frame16 s.params 35 (payloadU16 l)))

/-- RegisterToggleOutputs (R152). -/
def execRegisterToggleOutputs (sh : Shape) (_m : Mask) (l : Lanes) (s : State) : Answer :=
  construct .registerToggleOutputs .u16 sh s <| .next (s.emit (frame16 s.params 36 (payloadU16 l)))

/-- RegisterStartPwm (R153). The value is not shifted: it is the register's 8-bit form already. -/
def execRegisterStartPwm (sh : Shape) (_m : Mask) (l : Lanes) (s : State) : Answer :=
  construct .registerStartPwm .u8 sh s <| .next (s.emit (frame8 s.params 81 (payloadU8 l)))

/-- RegisterStopPwm (R154). -/
def execRegisterStopPwm (sh : Shape) (_m : Mask) (l : Lanes) (s : State) : Answer :=
  construct .registerStopPwm .u8 sh s <| .next (s.emit (frame8 s.params 82 (payloadU8 l)))

/-- ColorsRgbs (R155). -/
def execColorsRgbs (sh : Shape) (_m : Mask) (l : Lanes) (s : State) : Answer :=
  construct .colorsRgbs .arr6 sh s <|
    .next (s.emit (frameArr6 s.params s.params.addrColorsRgbs
      (lane l 0) (lane l 1) (lane l 2) (lane l 3) (lane l 4) (lane l 5)))

end Sys2Proof.Machine
end

