-- ==== Sys2Proof/Machine/Dispatch.lean ====
section
/-! DEFINITION. The dispatch: one arm per command kind (spec/40_pipeline.md R92). -/

namespace Sys2Proof.Machine

def exec (i : Instr) (s : State) : Host.Outcome State Fault Refusal :=
  match i with
  | .setOutput sh m l => Sys2Proof.Machine.execSetOutput sh m l s
  | .clearOutput sh m l => Sys2Proof.Machine.execClearOutput sh m l s
  | .toggleOutput sh m l => Sys2Proof.Machine.execToggleOutput sh m l s
  | .startPwm sh m l => Sys2Proof.Machine.execStartPwm sh m l s
  | .stopPwm sh m l => Sys2Proof.Machine.execStopPwm sh m l s
  | .pwmFrequency sh m l => Sys2Proof.Machine.execPwmFrequency sh m l s
  | .ledCurrent sh m l => Sys2Proof.Machine.execLedCurrent sh m l s
  | .pulsePeriod sh m l => Sys2Proof.Machine.execPulsePeriod sh m l s
  | .colorsRgb sh m l => Sys2Proof.Machine.execColorsRgb sh m l s
  | .colorsRgbs sh m l => Sys2Proof.Machine.execColorsRgbs sh m l s
  | .registerSetOutputs sh m l => Sys2Proof.Machine.execRegisterSetOutputs sh m l s
  | .registerClearOutputs sh m l => Sys2Proof.Machine.execRegisterClearOutputs sh m l s
  | .registerToggleOutputs sh m l => Sys2Proof.Machine.execRegisterToggleOutputs sh m l s
  | .registerStartPwm sh m l => Sys2Proof.Machine.execRegisterStartPwm sh m l s
  | .registerStopPwm sh m l => Sys2Proof.Machine.execRegisterStopPwm sh m l s

end Sys2Proof.Machine
end

