-- ==== Sys2Proof/Machine/Step.lean ====
section
/-! DEFINITION. One step: one command word in, one result out (spec/40_pipeline.md R90). -/

namespace Sys2Proof.Machine

/-- One step of the block (R90): it takes the next command word the host has presented and decodes it; kind code 15 is
`IllegalKind` (R174), and any other word is the command that `exec` gives a meaning. Where the host presents no command
the run is over (R207; assumption 2). -/
def step (s : State) : Host.Outcome State Fault Refusal :=
  match s.cmds with
  | [] => .fault .noCommand
  | w :: rest =>
    match decode w with
    | .error _ => .next ((s.takeCommand rest).takeFault (.illegalKind w))
    | .ok i => exec i (s.takeCommand rest)

/-- `s` with the word whose bits are `w` presented as the very next command, ahead of any the host has presented already.
The block fetches nothing (R21, R46): a program is the stream of commands its host presents (R207; assumption 1). -/
def State.withFetchWord (s : State) (nbits w : Nat) : State :=
  { s with cmds := BitVec.ofNat 72 (w % 2 ^ nbits) :: s.cmds }

end Sys2Proof.Machine
end

