-- ==== Sys2Proof/Machine/Assembler.lean ====
section
/-! DEFINITION. The assembly form `encode({kind:..., mask:..., payload:...})` (spec/30_encoding.md R79), as syntax trees
(assumption 16): what each form written assembles to, and which the assembler refuses. -/

namespace Sys2Proof.Machine

/-- `<MaskExpr>`: one port or several joined by `|`, a numeral, or left out (R79). The list of no ports is a tree R79 gives
no written form; `assembleMask` says what the model makes of it (assumption 16). -/
inductive MaskExpr where
  | ports (ps : List Port)
  | numeral (n : Nat)
  | omitted
  deriving DecidableEq, Repr

/-- `<Payload>`: left out, a numeral, or a bracketed list (R79). -/
inductive PayloadExpr where
  | omitted
  | numeral (n : Nat)
  | list (bs : List Nat)
  deriving DecidableEq, Repr

/-- The two assembly forms: a command, or `word(0x...)` with a raw word (R79). -/
inductive AsmLine where
  | command (kind : Kind) (mask : MaskExpr) (payload : PayloadExpr)
  | word (w : CmdWord)
  deriving DecidableEq, Repr

/-- The mask a mask expression assembles to. It may be left out for the kinds that ignore it, where it assembles as 0; a
numeral above 65535 is no mask (R79). The list of no ports, which R79 gives no written form, assembles as the empty
selection of R26, mask 0 (DESIGN CHOICE, assumption 16). -/
def assembleMask (t : PortTable) (k : Kind) : MaskExpr → Option Mask
  | .ports ps => some (maskOfPorts t ps)
  | .numeral n => if n ≤ 65535 then some (BitVec.ofNat 16 n) else none
  | .omitted => if k.ignoresMask then some 0 else none

/-- Array elements in their lanes, element `b_i` in lane `i` (R64). -/
def lanesOfBytes : List Nat → Nat
  | [] => 0
  | b :: bs => b + 256 * lanesOfBytes bs

/-- The integer shape a numeral takes: the one the kind requires. For a kind that requires none of the two the spec names
no shape; the model takes the narrower that holds the numeral (DESIGN CHOICE, assumption 16): any of the two faults. -/
def numeralShape (required : Shape) (n : Nat) : Shape :=
  match required with
  | .u8 => .u8
  | .u16 => .u16
  | _ => if n ≤ 255 then .u8 else .u16

/-- The shape and the lanes a payload form assembles to; none where the assembler refuses it: a numeral that does not fit
its shape, a list of another length than 3 or 6, an element above 255 (R79). -/
def assemblePayload (required : Shape) : PayloadExpr → Option (Shape × Lanes)
  | .omitted => some (.none, 0)
  | .numeral n =>
    if n < 2 ^ (8 * (numeralShape required n).byteCount) then some (numeralShape required n, BitVec.ofNat 48 n) else none
  | .list bs =>
    if bs.all fun b => decide (b ≤ 255) then
      match bs.length with
      | 3 => some (.arr3, BitVec.ofNat 48 (lanesOfBytes bs))
      | 6 => some (.arr6, BitVec.ofNat 48 (lanesOfBytes bs))
      | _ => none
    else none

/-- The command word of an assembly line, or none where the assembler refuses the line (R79). -/
def assemble (p : Params) : AsmLine → Option CmdWord
  | .command k me pe =>
    match assembleMask p.ports k me, assemblePayload (requiredShape k) pe with
    | some m, some (sh, l) => some (encode (instrOf k sh m l))
    | _, _ => none
  | .word w => some w

end Sys2Proof.Machine
end

