-- ==== Sys2Proof/Machine/Pipeline.lean ====
section
/-! DEFINITION. The four stages as spec/40_pipeline.md writes them, over tables by kind: `encode(Command) -> Frame |
Error` as one pure function of the command word and the parameters (R90, R91, R93, R96, R97). `step` does not use it: it
runs the meaning of each kind, written from that kind's own rule (files 41 to 44). That the two agree is a statement. -/

namespace Sys2Proof.Machine

/-- `Legal(kind, mask)`, by legality class (R93). -/
def legal (t : PortTable) (k : Kind) (m : Mask) : Bool :=
  match legalityClass k with
  | .multiSelect => true
  | .rangeRestricted => legalRange m
  | .exactlyOne => (allowedPorts k).any fun q => m == t.bit q
  | .registerDirect => true

/-- `Resolve(kind, mask)` (R96): the kind's fixed address, or else the address its table gives the port whose constant
is the whole mask; no address where there is no such port. -/
def resolve (p : Params) (k : Kind) (m : Mask) : Option Byte :=
  match fixedAddress p k with
  | some addr => some addr
  | none => (Port.all.find? fun q => m == p.ports.bit q && (portAddress p k q).isSome).bind (portAddress p k)

/-- `Serialize(kind, addr, mask, payload)` (R97). -/
def serialize (p : Params) (k : Kind) (addr : Byte) (m : Mask) (l : Lanes) : Frame :=
  match k with
  | .setOutput | .clearOutput | .toggleOutput => frame16 p addr m
  | .startPwm | .stopPwm => frame8 p addr (pwmBits m)
  | .pwmFrequency | .pulsePeriod => frame16 p addr (payloadU16 l)
  | .ledCurrent => frame8 p addr (payloadU8 l)
  | .colorsRgb => frameArr3 p addr (lane l 0) (lane l 1) (lane l 2)
  | .colorsRgbs => frameArr6 p addr (lane l 0) (lane l 1) (lane l 2) (lane l 3) (lane l 4) (lane l 5)
  | .registerSetOutputs | .registerClearOutputs | .registerToggleOutputs => frame16 p addr (payloadU16 l)
  | .registerStartPwm | .registerStopPwm => frame8 p addr (payloadU8 l)

/-- Stages 1 to 4 of a command whose kind is known: the first stage that faults ends it (R90, R175). The resolver is
asked of a legal mask only (R96). -/
def runStages (p : Params) (k : Kind) (sh : Shape) (m : Mask) (l : Lanes) : Result :=
  if sh ≠ requiredShape k then .fault (.invalidPayloadShape k sh)
  else
    match if legal p.ports k m then resolve p k m else none with
    | none => .fault (.invalidMaskSelection k m)
    | some addr => .ok (serialize p k addr m l)

/-- The whole block on one command word (R90). -/
def pipeline (p : Params) (w : CmdWord) : Result :=
  match kindOfCode (kindField w) with
  | none => .fault (.illegalKind w)
  | some k => runStages p k (shapeOfCode (shapeField w)) (maskField w) (payloadField w)

/-- The same on a command that is decoded already. -/
def resultOf (p : Params) (i : Instr) : Result := runStages p i.kind i.shape i.mask i.payload

end Sys2Proof.Machine
end

