-- ==== Sys2Proof/Safety.lean ====
section
/-! DEFINITION. What claims speak of: the two ways a command can end, and the invariant every step keeps. -/

namespace Sys2Proof.Machine

/-- The state after a command that emitted the frame `f`, every field said: status `OK`, the frame on its port, one more
result, one more command counted, and nothing else (spec/40_pipeline.md R90, spec/10_state.md R20, R21, R28). -/
def State.afterFrame (s : State) (f : Frame) : State where
  cmds := s.cmds
  status := some .ok
  frame := f
  results := s.results ++ [.ok f]
  ci := s.ci + 1
  params := s.params

/-- The state after a command that ended in the fault `x` with status `c`, every field said: no frame, one more result,
one more command counted, and nothing else (spec/60_exceptions.md R176). -/
def State.afterFault (s : State) (c : Status) (x : CommandFault) : State where
  cmds := s.cmds
  status := some c
  frame := []
  results := s.results ++ [.fault x]
  ci := s.ci + 1
  params := s.params

/-- A frame written out: the element `true`, then these bytes (spec/30_encoding.md R69). -/
def trueThen (bs : List Byte) : Frame := .sync :: bs.map .byte

/-- The length element of a frame that carries `n` payload bytes (spec/30_encoding.md R70, R75). -/
def lengthElement (p : Params) (n : Nat) : Byte := if n = 6 then p.lenArr6 else BitVec.ofNat 8 (n + 4)

/-- A frame of the block: the fixed fields of R70 around as many payload bytes as its register takes, for some target
register of R27. -/
def FrameOk (p : Params) (f : Frame) : Prop :=
  ∃ r ∈ targetRegisters p, ∃ bs : List Byte, bs.length = r.nBytes ∧
    f = trueThen ([2, lengthElement p r.nBytes, r.addr, 255, if r.is16 then p.tagU16 else p.tagU8] ++ bs ++ [0])

/-- The output ports show the last result on record; before the first, no status and no frame (R28, R200). -/
def State.PortsShowLastResult (s : State) : Prop :=
  match s.results.getLast? with
  | none => s.status = none ∧ s.frame = []
  | some (.ok f) => s.status = some .ok ∧ s.frame = f
  | some (.fault x) => s.status = some x.status ∧ s.frame = []

/-- The invariant every step keeps: one result for each command counted (R21, R207), the ports show the last of them
(R28), and every frame on record is one of the block's (R27, R70). -/
def State.Inv (s : State) : Prop :=
  s.ci = s.results.length ∧ s.PortsShowLastResult ∧ ∀ f ∈ s.frameStream, FrameOk s.params f

/-- The next state, if the step answers one. -/
def nextState? : Host.Outcome State Fault Refusal → Option State
  | .next s => some s
  | .fault _ => none
  | .refused _ => none

end Sys2Proof.Machine
end

