-- ==== Sys2Proof/Certificates/Slice0/Obligations.lean ====
section
/-! DEFINITION. The statements. -/

open Sys2Proof Sys2Proof.Machine

/-! ### What the statements are written with -/

namespace Sys2Proof.Claims

/-- The 8-bit frame, written out from spec/30_encoding.md R72, of the value `n mod 256`. -/
def frameOf8 (p : Params) (addr : Byte) (n : Nat) : Frame :=
  trueThen [2, 5, addr, 255, p.tagU8, BitVec.ofNat 8 n, 0]

/-- The 16-bit frame, written out from R73, of the value `n mod 65536`: the low byte, then the high byte. -/
def frameOf16 (p : Params) (addr : Byte) (n : Nat) : Frame :=
  trueThen [2, 6, addr, 255, p.tagU16, BitVec.ofNat 8 (n % 256), BitVec.ofNat 8 (n / 256), 0]

/-- The 3-byte frame, written out from R74, of the low three bytes of `n`, lowest first. -/
def frameOf3 (p : Params) (addr : Byte) (n : Nat) : Frame :=
  trueThen [2, 7, addr, 255, p.tagU8, BitVec.ofNat 8 n, BitVec.ofNat 8 (n / 256), BitVec.ofNat 8 (n / 65536), 0]

/-- The 6-byte frame, written out from R75, of the low six bytes of `n`, lowest first. -/
def frameOf6 (p : Params) (addr : Byte) (n : Nat) : Frame :=
  trueThen [2, p.lenArr6, addr, 255, p.tagU8, BitVec.ofNat 8 n, BitVec.ofNat 8 (n / 2 ^ 8), BitVec.ofNat 8 (n / 2 ^ 16),
    BitVec.ofNat 8 (n / 2 ^ 24), BitVec.ofNat 8 (n / 2 ^ 32), BitVec.ofNat 8 (n / 2 ^ 40), 0]

/-- What the rule of every kind says of its encoding and of a wrong shape: with the shape `sh` the kind requires, its
top byte is `top`; any other shape ends in `InvalidPayloadShape`, whatever the mask and the payload. -/
def ShapeRule (mk : Shape → Mask → Lanes → Instr) (k : Kind) (sh : Shape) (top : Nat) : Prop :=
  (∀ m l, (encode (mk sh m l)).toNat / 2 ^ 64 = top) ∧
  ∀ (s : State) (sh' : Shape) (m : Mask) (l : Lanes), sh' ≠ sh →
    exec (mk sh' m l) s = .next (s.afterFault .invalidPayloadShape (.invalidPayloadShape k sh'))

/-- A kind that writes its whole mask: any mask is written as a 16-bit value to `addr`; the payload lanes are not read. -/
def WritesWholeMask (mk : Shape → Mask → Lanes → Instr) (addr : Byte) : Prop :=
  ∀ (s : State) (m : Mask) (l : Lanes),
    exec (mk .none m l) s = .next (s.afterFrame (frameOf16 s.params addr m.toNat))

/-- A range-restricted kind: the masks `j * 1024`, `j` from 1 to 15, are written as the 8-bit value `j` to `addr`; every
other mask ends in `InvalidMaskSelection`, with the source's message. -/
def WritesShiftedMask (mk : Shape → Mask → Lanes → Instr) (k : Kind) (addr : Byte) : Prop :=
  ∀ (s : State) (m : Mask) (l : Lanes),
    (∀ j, 1 ≤ j → j ≤ 15 → m.toNat = j * 1024 →
      exec (mk .none m l) s = .next (s.afterFrame (frameOf8 s.params addr j))) ∧
    ((¬ ∃ j, 1 ≤ j ∧ j ≤ 15 ∧ m.toNat = j * 1024) →
      exec (mk .none m l) s = .next (s.afterFault .invalidMaskSelection (.invalidMaskSelection k m))) ∧
    (CommandFault.invalidMaskSelection k m).message? = some "only Digital0..Digital3 may be selected"

/-- An exactly-one-of-N kind over masks in numbers: a mask of the table has its payload written to the register the
table gives it, every other mask ends in `InvalidMaskSelection`. `frameOf` is the kind's frame form. -/
def FollowsMaskTable (mk : Shape → Mask → Lanes → Instr) (k : Kind) (sh : Shape)
    (rows : Params → List (Mask × Byte)) (frameOf : Params → Byte → Lanes → Frame) : Prop :=
  ∀ (s : State) (m : Mask) (l : Lanes), s.params.ports = defaultPorts →
    (∀ r ∈ rows s.params, m = r.1 →
      exec (mk sh m l) s = .next (s.afterFrame (frameOf s.params r.2 l))) ∧
    ((∀ r ∈ rows s.params, m ≠ r.1) →
      exec (mk sh m l) s = .next (s.afterFault .invalidMaskSelection (.invalidMaskSelection k m)))

/-- The same over ports by name, for any port table that keeps to what the source fixes: the mask must equal one port's
constant, the whole mask. -/
def FollowsPortTable (mk : Shape → Mask → Lanes → Instr) (k : Kind) (sh : Shape)
    (rows : List (Port × Byte)) (frameOf : Params → Byte → Lanes → Frame) : Prop :=
  ∀ (s : State) (m : Mask) (l : Lanes), s.params.ports.Wf → s.params.addrPulseDigital3 = 71 →
    (∀ r ∈ rows, m = s.params.ports.bit r.1 →
      exec (mk sh m l) s = .next (s.afterFrame (frameOf s.params r.2 l))) ∧
    ((∀ r ∈ rows, m ≠ s.params.ports.bit r.1) →
      exec (mk sh m l) s = .next (s.afterFault .invalidMaskSelection (.invalidMaskSelection k m)))

/-- A register-direct kind: whatever the mask field holds, the raw payload is written, in the kind's frame form. -/
def WritesRawPayload (mk : Shape → Mask → Lanes → Instr) (sh : Shape) (frameOf : Params → Lanes → Frame) : Prop :=
  ∀ (s : State) (m : Mask) (l : Lanes),
    exec (mk sh m l) s = .next (s.afterFrame (frameOf s.params l))

/-- The shape each kind requires, transcribed from spec/40_pipeline.md R91. -/
def shapeTable : List (Kind × Shape) :=
  [(.setOutput, .none), (.clearOutput, .none), (.toggleOutput, .none), (.startPwm, .none), (.stopPwm, .none),
   (.pwmFrequency, .u16), (.pulsePeriod, .u16), (.registerSetOutputs, .u16), (.registerClearOutputs, .u16),
   (.registerToggleOutputs, .u16), (.ledCurrent, .u8), (.registerStartPwm, .u8), (.registerStopPwm, .u8),
   (.colorsRgb, .arr3), (.colorsRgbs, .arr6)]

/-- `Legal(kind, mask)` in numbers, transcribed from spec/40_pipeline.md R93 for the port table of R25. -/
def LegalMask : Kind → Nat → Prop
  | .setOutput, _ | .clearOutput, _ | .toggleOutput, _ => True
  | .startPwm, m | .stopPwm, m => ∃ j, 1 ≤ j ∧ j ≤ 15 ∧ m = j * 1024
  | .pwmFrequency, m => m ∈ [1024, 2048, 4096, 8192]
  | .ledCurrent, m => m ∈ [64, 128]
  | .pulsePeriod, m => m ∈ [1, 2, 4, 8, 16, 32, 64, 128, 256, 512, 1024, 2048, 4096, 8192]
  | .colorsRgb, m => m ∈ [256, 512]
  | .registerSetOutputs, _ | .registerClearOutputs, _ | .registerToggleOutputs, _ | .registerStartPwm, _
  | .registerStopPwm, _ | .colorsRgbs, _ => True

/-- The kind accepts the mask in the state `s`: given the shape it requires, the command emits a frame. -/
def Accepts (s : State) (k : Kind) (m : Mask) (l : Lanes) : Prop :=
  ∃ t, exec (instrOf k (requiredShape k) m l) s = .next t ∧ t.status = some .ok

/-- The 15 top bytes that select a command (spec/30_encoding.md R66). -/
def topBytes : List Nat :=
  [0x00, 0x10, 0x20, 0x30, 0x40, 0x52, 0x61, 0x72, 0x83, 0x94, 0xA2, 0xB2, 0xC2, 0xD1, 0xE1]

/-- The 26 addresses a frame can carry (spec/20_memory.md R42). -/
def frameAddresses : List Nat :=
  [34, 35, 36, 46, 59, 60, 61, 62, 63, 64, 65, 66, 67, 68, 69, 70, 71, 73, 74, 75, 76, 81, 82, 84, 85, 86]

/-- The mask expressions that have a mask for a kind: those of R79, and, the model's choice, the list of no ports
(assumption 16). -/
def MaskFormAdmitted (k : Kind) : MaskExpr → Prop
  | .ports _ => True
  | .numeral n => n ≤ 65535
  | .omitted => k ∈ [Kind.colorsRgbs, .registerSetOutputs, .registerClearOutputs, .registerToggleOutputs,
      .registerStartPwm, .registerStopPwm]

/-- The payload forms R79 admits for a kind: they have a word, be it one whose shape the block refuses. -/
def PayloadFormAdmitted (k : Kind) : PayloadExpr → Prop
  | .omitted => True
  | .numeral n => n ≤ 65535 ∧ ((k, Shape.u8) ∈ shapeTable → n ≤ 255)
  | .list bs => (bs.length = 3 ∨ bs.length = 6) ∧ ∀ b ∈ bs, b ≤ 255

end Sys2Proof.Claims

open Sys2Proof.Claims

/-! ### Encoding of the command word -/

/-- Every well-formed command survives the trip through its command word: no bit of its shape, mask or payload is
dropped. The word's layout and codes are the spec's decisions D2 to D5 (assumption 12). -/
def Obligations.DecodeEncodeRoundTrip : Prop :=
  ∀ i : Instr, i.wf = true → decode (encode i) = .ok i

/-- The other direction: a word that decodes to a command is that command's word, and the command is well formed. -/
def Obligations.EncodeDecodeRoundTrip : Prop :=
  ∀ (w : CmdWord) (i : Instr), decode w = .ok i → encode i = w ∧ i.wf = true

/-- The decoder takes the four fields out of the word by R60's slices, here as arithmetic, and rejects by name exactly
the words of kind code 15 (R61; the layout is decision D2, the code 15 decision D15). -/
def Obligations.DecodeTakesTheFourFields : Prop :=
  ∀ w : CmdWord,
    (w.toNat / 2 ^ 68 = 15 → decode w = .error (.illegalKind w)) ∧
    (w.toNat / 2 ^ 68 ≠ 15 → ∃ i, decode w = .ok i ∧
      i.kind.code.toNat = w.toNat / 2 ^ 68 ∧
      i.shape.code.toNat = w.toNat / 2 ^ 64 % 16 ∧
      i.mask.toNat = w.toNat / 2 ^ 48 % 65536 ∧
      i.payload.toNat = w.toNat % 2 ^ 48)

/-- Command words written out in the spec, one or more a family, decode to the commands they stand for
(spec/95_test_vectors.md S1, S2, S4, V-D15, V-D19, V-I3, V-I1). -/
def Obligations.WordsOfTheSpecDecode : Prop :=
  decode 0x000401000000000000 = .ok (.setOutput .none 1025 0) ∧
  decode 0x301400000000000000 = .ok (.startPwm .none 5120 0) ∧
  decode 0x8301000000001E140A = .ok (.colorsRgb .arr3 256 0x1E140A) ∧
  decode 0xD11400000000000005 = .ok (.registerStartPwm .u8 0x1400 5) ∧
  decode 0x940000060504030201 = .ok (.colorsRgbs .arr6 0 0x060504030201) ∧
  decode 0x050001000000000000 = .ok (.setOutput (.reserved 5) 1 0) ∧
  decode 0xF00000000000000000 = .error (.illegalKind 0xF00000000000000000)

/-- A word carried as bytes: byte `k` is `cmd[8k+7:8k]`, least significant byte first, nine of them, and they decode to
what the word decodes to (R46, decision D20, assumption 18). That any other number of bytes is rejected is the model's
choice (assumption 18). -/
def Obligations.WordsTravelLeastSignificantByteFirst : Prop :=
  (∀ w : CmdWord, decodeBytes (bytesOfWord w) = decode w ∧ (bytesOfWord w).length = 9 ∧
    ∀ k, k < 9 → (bytesOfWord w)[k]? = some (BitVec.ofNat 8 (w.toNat / 256 ^ k))) ∧
  ∀ bs : List Byte, bs.length ≠ 9 → decodeBytes bs = .error .notNineBytes

/-- The opcode map (R66, which the spec derives from its decisions D3 and D4): the top bytes from 0xF0 on give
`IllegalKind`, the 15 accepted ones neither that nor `InvalidPayloadShape`, all others `InvalidPayloadShape`, whatever
the lower 64 bits. -/
def Obligations.TopByteSelectsTheCommand : Prop :=
  ∀ (s : State) (w : CmdWord) (rest : List CmdWord), s.cmds = w :: rest →
    ∃ t st, step s = .next t ∧ t.status = some st ∧
      (0xF0 ≤ w.toNat / 2 ^ 64 → st = .illegalKind) ∧
      (w.toNat / 2 ^ 64 ∈ topBytes → st = .ok ∨ st = .invalidMaskSelection) ∧
      (w.toNat / 2 ^ 64 < 0xF0 → w.toNat / 2 ^ 64 ∉ topBytes → st = .invalidPayloadShape)

/-! ### The step -/

/-- A step runs the command its next word decodes to, on the state with that word taken from the port. -/
def Obligations.StepRunsTheDecodedCommand : Prop :=
  ∀ (s : State) (w : CmdWord) (rest : List CmdWord) (i : Instr), s.cmds = w :: rest → decode w = .ok i →
    step s = exec i { s with cmds := rest }

/-- A table word placed with `withFetchWord` is the very next command run, and the commands that were waiting still
wait (assumption 1). -/
def Obligations.PlacedWordRunsNext : Prop :=
  ∀ (s : State) (w : Nat) (i : Instr), decodeTableWord 72 w = some i → step (s.withFetchWord 72 w) = exec i s

/-- Kind code 15 is `IllegalKind`, whatever the other fields hold: status code 3, no frame, and the command counts like
any other (R174, decision D15; R176, decision D17; R171, decision D14; assumptions 13 and 14). -/
def Obligations.KindCodeFifteenIsIllegalKind : Prop :=
  Status.illegalKind.code = 3 ∧
  ∀ (s : State) (w : CmdWord) (rest : List CmdWord), s.cmds = w :: rest → w.toNat / 2 ^ 68 = 15 →
    step s = .next (State.afterFault { s with cmds := rest } .illegalKind (.illegalKind w))

/-- A presented command always has its one result: the step takes that word, adds one result, counts one command and
changes no parameter (R20, R21, R90, R201). With no command presented it stops, the model's choice (assumption 2). -/
def Obligations.StepAnswersEveryPresentedCommand : Prop :=
  (∀ (s : State) (w : CmdWord) (rest : List CmdWord), s.cmds = w :: rest →
    ∃ t r, step s = .next t ∧ t.cmds = rest ∧ t.results = s.results ++ [r] ∧ t.ci = s.ci + 1 ∧ t.params = s.params) ∧
  ∀ s : State, s.cmds = [] → step s = .fault .noCommand

/-- The meanings, each written from its own kind's rule, are together the four-stage pipeline of R90 over the tables by
kind, for every word, every state and every value of the parameters. Its stage 0, kind code 15, is the spec's decision
D15 (assumption 13). -/
def Obligations.StepIsTheFourStagePipeline : Prop :=
  ∀ (s : State) (w : CmdWord) (rest : List CmdWord), s.cmds = w :: rest →
    step s = .next (match pipeline s.params w with
      | .ok f => State.afterFrame { s with cmds := rest } f
      | .fault x => State.afterFault { s with cmds := rest } x.status x)

/-- A run takes every command presented, in order, and its results are the pipeline's on each word alone; the frames
leave in that order, and a fault leaves a gap (R207 and R51, decision D18; assumption 1). -/
def Obligations.RunAnswersEveryCommandInOrder : Prop :=
  ∀ s : State, ∃ t, Host.Core.run Sys2Proof.core s.cmds.length s = .next t ∧
    t.cmds = [] ∧ t.params = s.params ∧ t.ci = s.ci + s.cmds.length ∧
    t.results = s.results ++ s.cmds.map (pipeline s.params) ∧
    t.frameStream = s.frameStream ++ (s.cmds.map (pipeline s.params)).filterMap Result.frame?

/-! ### The kinds -/

/-- SetOutput, ClearOutput and ToggleOutput complete on every mask: the whole mask is written, low byte first, to 34, 35
and 36; any shape but NONE faults (R110 to R113). The top bytes rest on the codes of decisions D3 and D4
(assumption 12). -/
def Obligations.SetClearToggleWriteTheWholeMask : Prop :=
  (ShapeRule .setOutput .setOutput .none 0x00 ∧ WritesWholeMask .setOutput 34) ∧
  (ShapeRule .clearOutput .clearOutput .none 0x10 ∧ WritesWholeMask .clearOutput 35) ∧
  (ShapeRule .toggleOutput .toggleOutput .none 0x20 ∧ WritesWholeMask .toggleOutput 36)

/-- StartPwm and StopPwm complete on the 15 masks `j * 1024`: the value `j` is written to 81 and 82; every other mask is
`InvalidMaskSelection` with the source's message (R120), any shape but NONE `InvalidPayloadShape` (R121, R122). The subset
test is the spec's own choice between the source's two readings (R120, 90_conflicts.md C2, decision D13; assumption 11),
and the top bytes rest on decisions D3 and D4 (assumption 12). -/
def Obligations.StartStopPwmWriteTheShiftedMask : Prop :=
  (ShapeRule .startPwm .startPwm .none 0x30 ∧ WritesShiftedMask .startPwm .startPwm 81) ∧
  (ShapeRule .stopPwm .stopPwm .none 0x40 ∧ WritesShiftedMask .stopPwm .stopPwm 82)

/-- Bit `i` of the value written is 1 exactly when `Digital<i>` is in the mask, and the value is below 16 (R123, which the
spec derives; which bits are `Digital1` and `Digital3` is decision D8, assumption 10). -/
def Obligations.PwmValueHasOneBitPerDigitalPort : Prop :=
  ∀ c ∈ [(Kind.startPwm, (81 : Byte)), (Kind.stopPwm, 82)], ∀ (s t : State) (m : Mask) (l : Lanes),
    s.params.ports = defaultPorts → exec (instrOf c.1 .none m l) s = .next t → t.status = some .ok →
    ∃ v : Byte, t.frame = trueThen [2, 5, c.2, 255, s.params.tagU8, v, 0] ∧ v.toNat < 16 ∧
      v.getLsbD 0 = m.getLsbD 10 ∧ v.getLsbD 1 = m.getLsbD 11 ∧ v.getLsbD 2 = m.getLsbD 12 ∧
      v.getLsbD 3 = m.getLsbD 13 ∧
      ∀ i, i < 4 → (v.getLsbD i = true ↔ m &&& s.params.ports.bit (digitalPorts.getD i .digital0) ≠ 0)

/-- PwmFrequency (R131): the masks 1024, 2048, 4096, 8192 select 73 to 76, the 16-bit payload is written low byte first,
every other mask is `InvalidMaskSelection`, any shape but U16 `InvalidPayloadShape`. -/
def Obligations.PwmFrequencyFollowsItsTable : Prop :=
  ShapeRule .pwmFrequency .pwmFrequency .u16 0x52 ∧
  FollowsMaskTable .pwmFrequency .pwmFrequency .u16 (fun _ => [(1024, 73), (2048, 74), (4096, 75), (8192, 76)])
    fun p addr l => frameOf16 p addr (l.toNat % 65536)

/-- PulsePeriod (R132): each of the 14 port masks selects its register, 8192 the parameter `ADDR_PULSE_DIGITAL3`, every
other mask is `InvalidMaskSelection`, any shape but U16 `InvalidPayloadShape`. The parameter and its default 71 are the
spec's own choice, following the letter of a source that doubts it (decision D22, U1; assumption 9). -/
def Obligations.PulsePeriodFollowsItsTable : Prop :=
  (ShapeRule .pulsePeriod .pulsePeriod .u16 0x72 ∧
  FollowsMaskTable .pulsePeriod .pulsePeriod .u16
    (fun p => [(1, 59), (2, 60), (4, 61), (8, 62), (16, 63), (32, 64), (64, 65), (128, 66), (256, 67), (512, 68),
      (1024, 69), (2048, 70), (4096, 71), (8192, p.addrPulseDigital3)])
    fun p addr l => frameOf16 p addr (l.toNat % 65536)) ∧
  defaultParams.addrPulseDigital3 = 71

/-- LedCurrent (R133): the masks 64 and 128 both select 86, the 8-bit payload is written, every other mask is
`InvalidMaskSelection`, any shape but U8 `InvalidPayloadShape`. -/
def Obligations.LedCurrentFollowsItsTable : Prop :=
  ShapeRule .ledCurrent .ledCurrent .u8 0x61 ∧
  FollowsMaskTable .ledCurrent .ledCurrent .u8 (fun _ => [(64, 86), (128, 86)])
    fun p addr l => frameOf8 p addr l.toNat

/-- ColorsRgb (R134): the masks 256 and 512 select 84 and 85, the three bytes are written in index order, every other
mask is `InvalidMaskSelection`, any shape but ARR3 `InvalidPayloadShape`. -/
def Obligations.ColorsRgbFollowsItsTable : Prop :=
  ShapeRule .colorsRgb .colorsRgb .arr3 0x83 ∧
  FollowsMaskTable .colorsRgb .colorsRgb .arr3 (fun _ => [(256, 84), (512, 85)])
    fun p addr l => frameOf3 p addr l.toNat

/-- The class, by port names and for every port table that keeps to what the source fixes (R130): exactly one allowed
port's constant, the whole mask, or else `InvalidMaskSelection`; the payload is written unchecked. -/
def Obligations.ExactlyOneKindsFollowTheRegisterTable : Prop :=
  FollowsPortTable .pwmFrequency .pwmFrequency .u16
    [(.digital0, 73), (.digital1, 74), (.digital2, 75), (.digital3, 76)]
    (fun p addr l => frameOf16 p addr (l.toNat % 65536)) ∧
  FollowsPortTable .ledCurrent .ledCurrent .u8 [(.led0, 86), (.led1, 86)] (fun p addr l => frameOf8 p addr l.toNat) ∧
  FollowsPortTable .pulsePeriod .pulsePeriod .u16
    [(.pokeLed0, 59), (.pokeLed1, 60), (.pokeLed2, 61), (.pokeValve0, 62), (.pokeValve1, 63), (.pokeValve2, 64),
     (.led0, 65), (.led1, 66), (.rgb0, 67), (.rgb1, 68), (.digital0, 69), (.digital1, 70), (.digital2, 71),
     (.digital3, 71)]
    (fun p addr l => frameOf16 p addr (l.toNat % 65536)) ∧
  FollowsPortTable .colorsRgb .colorsRgb .arr3 [(.rgb0, 84), (.rgb1, 85)] (fun p addr l => frameOf3 p addr l.toNat)

/-- RegisterSetOutputs, RegisterClearOutputs and RegisterToggleOutputs complete on every mask and every payload: the
16-bit payload goes to 34, 35, 36; any shape but U16 faults (R150 to R152). -/
def Obligations.RegisterOutputsWriteTheRawPayload : Prop :=
  (ShapeRule .registerSetOutputs .registerSetOutputs .u16 0xA2 ∧
    WritesRawPayload .registerSetOutputs .u16 fun p l => frameOf16 p 34 (l.toNat % 65536)) ∧
  (ShapeRule .registerClearOutputs .registerClearOutputs .u16 0xB2 ∧
    WritesRawPayload .registerClearOutputs .u16 fun p l => frameOf16 p 35 (l.toNat % 65536)) ∧
  (ShapeRule .registerToggleOutputs .registerToggleOutputs .u16 0xC2 ∧
    WritesRawPayload .registerToggleOutputs .u16 fun p l => frameOf16 p 36 (l.toNat % 65536))

/-- RegisterStartPwm and RegisterStopPwm complete on every mask and every payload: the 8-bit payload goes, unshifted, to
81 and 82; any shape but U8 faults (R153, R154). -/
def Obligations.RegisterPwmWritesTheRawPayload : Prop :=
  (ShapeRule .registerStartPwm .registerStartPwm .u8 0xD1 ∧
    WritesRawPayload .registerStartPwm .u8 fun p l => frameOf8 p 81 l.toNat) ∧
  (ShapeRule .registerStopPwm .registerStopPwm .u8 0xE1 ∧
    WritesRawPayload .registerStopPwm .u8 fun p l => frameOf8 p 82 l.toNat)

/-- ColorsRgbs completes on every mask and every payload: the six bytes go in index order to `ADDR_COLORS_RGBS` with the
length element `LEN_ARR6`; any shape but ARR6 faults (R155). That the 6-byte frame has a length element and its default 10
are the spec's own restoration (R76, C7, decision D11; assumption 7), the default 46 its own choice (C1, decision D12;
assumption 8). -/
def Obligations.ColorsRgbsWritesSixBytes : Prop :=
  (ShapeRule .colorsRgbs .colorsRgbs .arr6 0x94 ∧
    WritesRawPayload .colorsRgbs .arr6 fun p l => frameOf6 p p.addrColorsRgbs l.toNat) ∧
  defaultParams.lenArr6 = 10 ∧ defaultParams.addrColorsRgbs = 46

/-! ### Laws between the kinds -/

/-- SetOutput, ClearOutput, ToggleOutput with mask `m` do what RegisterSetOutputs, RegisterClearOutputs,
RegisterToggleOutputs do with payload `m` (R157, which the spec derives). -/
def Obligations.MaskAndRegisterOutputsAgree : Prop :=
  ∀ (s : State) (m m' : Mask) (l l' : Lanes), l'.toNat % 65536 = m.toNat →
    exec (.setOutput .none m l) s = exec (.registerSetOutputs .u16 m' l') s ∧
    exec (.clearOutput .none m l) s = exec (.registerClearOutputs .u16 m' l') s ∧
    exec (.toggleOutput .none m l) s = exec (.registerToggleOutputs .u16 m' l') s

/-- StartPwm and StopPwm with a legal mask `m` do what RegisterStartPwm and RegisterStopPwm do with payload `m >> 10`;
with payload 0, or 16 and above, the register-direct kinds emit a frame no mask gives (R158, which the spec derives). -/
def Obligations.MaskAndRegisterPwmAgreeOnLegalMasks : Prop :=
  (∀ (s : State) (m m' : Mask) (l l' : Lanes) (j : Nat), 1 ≤ j → j ≤ 15 → m.toNat = j * 1024 → l'.toNat % 256 = j →
    exec (.startPwm .none m l) s = exec (.registerStartPwm .u8 m' l') s ∧
    exec (.stopPwm .none m l) s = exec (.registerStopPwm .u8 m' l') s) ∧
  ∀ (s : State) (m m' : Mask) (sh : Shape) (l l' : Lanes), l'.toNat % 256 = 0 ∨ 16 ≤ l'.toNat % 256 →
    ∃ t u t' u', exec (.startPwm sh m l) s = .next t ∧ exec (.registerStartPwm .u8 m' l') s = .next u ∧
      t.frame ≠ u.frame ∧ u.status = some .ok ∧
      exec (.stopPwm sh m l) s = .next t' ∧ exec (.registerStopPwm .u8 m' l') s = .next u' ∧
      t'.frame ≠ u'.frame ∧ u'.status = some .ok

/-- The three multi-select kinds: the frame gives the kind and the mask (R114, which the spec derives). -/
def Obligations.MultiSelectFrameTellsKindAndMask : Prop :=
  ∀ k ∈ [Kind.setOutput, .clearOutput, .toggleOutput], ∀ k' ∈ [Kind.setOutput, .clearOutput, .toggleOutput],
    ∀ (s : State) (m m' : Mask) (l l' : Lanes), ∃ t t',
      exec (instrOf k .none m l) s = .next t ∧ exec (instrOf k' .none m' l') s = .next t' ∧
      (t.frame = t'.frame → k = k' ∧ m = m')

/-- The exactly-one kinds (R135, which the spec derives): the frame gives the payload value, and for PwmFrequency and
ColorsRgb the mask; LedCurrent's two masks give one frame, and so, with `ADDR_PULSE_DIGITAL3` = 71 (assumption 9), do
PulsePeriod's `Digital2` and `Digital3`. -/
def Obligations.ExactlyOneFrameTellsThePayload : Prop :=
  (∀ k ∈ [Kind.pwmFrequency, .pulsePeriod, .ledCurrent, .colorsRgb],
    ∀ (s t t' : State) (m m' : Mask) (l l' : Lanes),
      exec (instrOf k (requiredShape k) m l) s = .next t → exec (instrOf k (requiredShape k) m' l') s = .next t' →
      t.status = some .ok → t.frame = t'.frame →
      l.toNat % 2 ^ (8 * (requiredShape k).byteCount) = l'.toNat % 2 ^ (8 * (requiredShape k).byteCount) ∧
      (k = .pwmFrequency ∨ k = .colorsRgb → m = m')) ∧
  ∀ (s : State) (l : Lanes), s.params.ports.Wf →
    (exec (.ledCurrent .u8 s.params.ports.led0 l) s = exec (.ledCurrent .u8 s.params.ports.led1 l) s) ∧
    (s.params.addrPulseDigital3 = 71 →
      exec (.pulsePeriod .u16 s.params.ports.digital2 l) s = exec (.pulsePeriod .u16 s.params.ports.digital3 l) s)

/-- The counts of legal masks (R94, which the spec derives): 15, 4, 2, 14 and 2 for the kinds that check, all for the
others. The numbers hold for the default port table (assumption 10). -/
def Obligations.LegalMaskCounts : Prop :=
  (∀ c ∈ [(Kind.startPwm, 15), (.stopPwm, 15), (.pwmFrequency, 4), (.ledCurrent, 2), (.pulsePeriod, 14), (.colorsRgb, 2)],
    ∃ ms : List Mask, ms.Nodup ∧ ms.length = c.2 ∧
      ∀ (s : State) (m : Mask) (l : Lanes), s.params.ports = defaultPorts → (Accepts s c.1 m l ↔ m ∈ ms)) ∧
  ∀ k, legalityClass k = .multiSelect ∨ legalityClass k = .registerDirect →
    ∀ (s : State) (m : Mask) (l : Lanes), Accepts s k m l

/-- With `ADDR_PULSE_DIGITAL3` set to another value `a`, a PulsePeriod frame for the Digital3 mask carries `a` at `F[3]`
and nothing else changes; no other command's result changes (spec/95_test_vectors.md P5, U1). -/
def Obligations.PulseDigital3ParameterMovesOneElement : Prop :=
  ∀ (s : State) (a : Byte) (i : Instr), s.params.ports.Wf →
    ∃ t u, exec i s = .next t ∧
      exec i { s with params := { s.params with addrPulseDigital3 := a } } = .next u ∧ u.status = t.status ∧
      (i.kind = .pulsePeriod ∧ i.shape = .u16 ∧ i.mask = s.params.ports.digital3 → u.frame = t.frame.set 3 (.byte a)) ∧
      (¬ (i.kind = .pulsePeriod ∧ i.shape = .u16 ∧ i.mask = s.params.ports.digital3) → u.frame = t.frame)

/-! ### Faults -/

/-- Every kind raises `InvalidPayloadShape` exactly when the shape is not the one it requires, whatever the mask and the
payload (R172). -/
def Obligations.WrongShapeIsInvalidPayloadShape : Prop :=
  ∀ c ∈ shapeTable, ∀ (i : Instr) (s : State), i.kind = c.1 →
    ∃ t, exec i s = .next t ∧ (t.status = some .invalidPayloadShape ↔ i.shape ≠ c.2) ∧
      (i.shape ≠ c.2 → t = s.afterFault .invalidPayloadShape (.invalidPayloadShape i.kind i.shape))

/-- A command of the right shape raises `InvalidMaskSelection` exactly when its mask is outside the legal set of its kind,
whatever the payload, with the source's message for the range-restricted kinds (R173, in numbers for the port table of
R25; assumptions 10 and 11). -/
def Obligations.IllegalMaskIsInvalidMaskSelection : Prop :=
  ∀ c ∈ shapeTable, ∀ (i : Instr) (s : State), s.params.ports = defaultPorts → i.kind = c.1 → i.shape = c.2 →
    ∃ t, exec i s = .next t ∧ (t.status = some .invalidMaskSelection ↔ ¬ LegalMask i.kind i.mask.toNat) ∧
      (¬ LegalMask i.kind i.mask.toNat →
        t = s.afterFault .invalidMaskSelection (.invalidMaskSelection i.kind i.mask)) ∧
      (i.kind = .startPwm ∨ i.kind = .stopPwm →
        (CommandFault.invalidMaskSelection i.kind i.mask).message? = some "only Digital0..Digital3 may be selected")

/-- Which fault a command with several defects reports, as the code on the status port (R175 and R171, decisions D14 to
D16; assumptions 13 and 14): `IllegalKind` (3) before `InvalidPayloadShape` (1) before `InvalidMaskSelection` (2). -/
def Obligations.FirstFaultInStageOrderIsReported : Prop :=
  ∀ (s : State) (w : CmdWord) (rest : List CmdWord), s.cmds = w :: rest →
    ∃ t st, step s = .next t ∧ t.status = some st ∧
      (w.toNat / 2 ^ 68 = 15 → st.code = 3) ∧
      ∀ k, k.code.toNat = w.toNat / 2 ^ 68 →
        ((requiredShape k).code.toNat ≠ w.toNat / 2 ^ 64 % 16 → st.code = 1) ∧
        ((requiredShape k).code.toNat = w.toNat / 2 ^ 64 % 16 →
          legal s.params.ports k (BitVec.ofNat 16 (w.toNat / 2 ^ 48)) = false → st.code = 2) ∧
        ((requiredShape k).code.toNat = w.toNat / 2 ^ 64 % 16 →
          legal s.params.ports k (BitVec.ofNat 16 (w.toNat / 2 ^ 48)) = true → st.code = 0)

/-- All or nothing (R95): a step that faults emits no frame, whole or partial, and leaves nothing else behind; one that
does not adds exactly one frame to the stream. -/
def Obligations.FaultingStepEmitsNothing : Prop :=
  ∀ s t : State, step s = .next t →
    (t.status ≠ some .ok →
      t.frame = [] ∧ t.frameStream = s.frameStream ∧ t.requests = s.requests ∧ t.params = s.params ∧
      t.cmds = s.cmds.tail) ∧
    (t.status = some .ok → t.frame ≠ [] ∧ t.frameStream = s.frameStream ++ [t.frame])

/-- A fault does not latch: the command after a faulting one ends as if the faulting one had never been presented (R177,
decision D17; assumption 14). -/
def Obligations.FaultDoesNotTouchTheNextCommand : Prop :=
  ∀ (s t : State) (w w' : CmdWord) (rest : List CmdWord), s.cmds = w :: w' :: rest → step s = .next t →
    t.status ≠ some .ok →
    ∃ u u', step t = .next u ∧ step { s with cmds := w' :: rest } = .next u' ∧
      u.status = u'.status ∧ u.frame = u'.frame ∧ u.frameStream = u'.frameStream ∧ u.cmds = u'.cmds ∧
      u.params = u'.params

/-! ### What a command reads and what it leaves alone -/

/-- The frame of every command: whatever its kind, shape, mask and payload, it leaves the commands still presented and
the parameters alone, counts one command and adds one result; its ports show that result (R20 to R23, R28). -/
def Obligations.EveryCommandKeepsTheRestOfTheState : Prop :=
  ∀ (i : Instr) (s : State), ∃ t r, exec i s = .next t ∧
    t.cmds = s.cmds ∧ t.params = s.params ∧ t.ci = s.ci + 1 ∧ t.results = s.results ++ [r] ∧
    t.status = some r.status ∧ t.frame = r.frame?.getD []

/-- A command's result is a function of the command and the parameters alone: two states that share nothing but their
parameters give it the same status, frame and result (R20, R50). -/
def Obligations.ResultDependsOnCommandAndParametersOnly : Prop :=
  ∀ (i : Instr) (s s' : State), s.params = s'.params →
    ∃ t t' r, exec i s = .next t ∧ exec i s' = .next t' ∧ t.status = t'.status ∧ t.frame = t'.frame ∧
      t.results = s.results ++ [r] ∧ t'.results = s'.results ++ [r]

/-- Payload lanes above the kind's byte count do not influence the result (R64, decision D6; assumption 12). -/
def Obligations.UnusedPayloadLanesAreIgnored : Prop :=
  ∀ (k : Kind) (sh : Shape) (m : Mask) (l l' : Lanes) (s : State),
    l.toNat % 2 ^ (8 * (requiredShape k).byteCount) = l'.toNat % 2 ^ (8 * (requiredShape k).byteCount) →
    exec (instrOf k sh m l) s = exec (instrOf k sh m l') s

/-- The register-direct kinds do not read the mask field, the kinds that do not read it are these six, and the other
nine do read it (R65, decision D6; R156). -/
def Obligations.OnlyRegisterDirectKindsIgnoreTheMask : Prop :=
  (∀ k ∈ [Kind.registerSetOutputs, .registerClearOutputs, .registerToggleOutputs, .registerStartPwm, .registerStopPwm,
      .colorsRgbs], ∀ (sh : Shape) (m m' : Mask) (l : Lanes) (s : State),
    exec (instrOf k sh m l) s = exec (instrOf k sh m' l) s) ∧
  ∀ k, legalityClass k ≠ .registerDirect → ∀ s : State, s.params.ports.Wf →
    ∃ m m' l t t', exec (instrOf k (requiredShape k) m l) s = .next t ∧
      exec (instrOf k (requiredShape k) m' l) s = .next t' ∧ t.frame ≠ t'.frame

/-- The resolver has an address for every legal mask of every kind, and for the kinds whose mask selects the register it
has one for the legal masks only (R96, R170). -/
def Obligations.ResolverAnswersLegalMasks : Prop :=
  ∀ (p : Params) (k : Kind) (m : Mask),
    (legal p.ports k m = true → (resolve p k m).isSome = true) ∧
    (legalityClass k = .exactlyOne → (resolve p k m).isSome = true → legal p.ports k m = true)

/-! ### Frames -/

/-- What the block guarantees of every frame it emits (R78, which the spec derives), with `LEN_ARR6` = 10 and the two
doubtful addresses at their defaults (assumptions 7 to 9). -/
def Obligations.EveryEmittedFrameIsLaidOut : Prop :=
  ∀ s t : State, step s = .next t → t.status = some .ok →
    s.params.tagU8 ≠ s.params.tagU16 → s.params.lenArr6 = 10 → s.params.addrColorsRgbs = 46 →
    s.params.addrPulseDigital3 = 71 →
    ∃ len addr tag : Byte, ∃ payload : List Byte,
      t.frame = trueThen ([2, len, addr, 255, tag] ++ payload ++ [0]) ∧
      (len.toNat = 5 ∨ len.toNat = 6 ∨ len.toNat = 7 ∨ len.toNat = 10) ∧
      addr.toNat ∈ frameAddresses ∧ (tag = s.params.tagU16 ↔ len.toNat = 6) ∧
      (tag = s.params.tagU8 ∨ tag = s.params.tagU16) ∧
      (∃ r ∈ targetRegisters s.params, r.addr = addr ∧ r.nBytes + 4 = len.toNat) ∧ t.frame.length = len.toNat + 3

/-- A frame ends as many elements after its length element as that element says, so a stream of frames can be cut: the
frame just emitted is read back whole, whatever follows it (R76 and R77, which the spec derives; `LEN_ARR6` = 10,
assumption 7). -/
def Obligations.FrameEndsWhereItsLengthSays : Prop :=
  ∀ (s t : State) (after : List Element), step s = .next t → t.status = some .ok → s.params.lenArr6 = 10 →
    readFrame (t.frame ++ after) = some (t.frame, after)

/-- Every frame carries one write request, to a target register, with as many bytes as that register takes, and it joins
the requests made so far (R27, R100). -/
def Obligations.EmittedFrameCarriesOneWriteRequest : Prop :=
  ∀ s t : State, step s = .next t → t.status = some .ok →
    ∃ q, frameRequest t.frame = some q ∧ t.requests = s.requests ++ [q] ∧
      ∃ r ∈ targetRegisters s.params, r.addr = q.addr ∧ r.nBytes = q.bytes.length

/-! ### Masks and arithmetic -/

/-- A mask is the OR of its ports (R26): the empty selection is 0, joining two selections ORs their masks, naming a port
twice changes nothing; the four Digital ports make 15360 for every port table that keeps to what the source fixes. That
all 14 ports make 16383 the spec derives from its table of R25, whose default ports are decisions D7 and D8
(assumption 10). -/
def Obligations.MasksAreOrOfPorts : Prop :=
  (∀ t : PortTable, maskOfPorts t [] = 0 ∧ (∀ p, maskOfPorts t [p] = t.bit p) ∧
    (∀ ps qs, maskOfPorts t (ps ++ qs) = maskOfPorts t ps ||| maskOfPorts t qs) ∧
    (∀ p ps, p ∈ ps → maskOfPorts t (p :: ps) = maskOfPorts t ps) ∧
    (t.Wf → maskOfPorts t digitalPorts = digitalAll ∧ digitalAll = 15360)) ∧
  maskOfPorts defaultPorts Port.all = portsAll ∧ portsAll = 16383

/-- The low and the high byte give the 16-bit value back, and the shift of a legal PWM mask loses no bit (R98). -/
def Obligations.NarrowingLosesNothing : Prop :=
  (∀ v : BitVec 16, (lo8 v).toNat + 256 * (hi8 v).toNat = v.toNat) ∧
  ∀ m : Mask, legalRange m = true →
    (pwmBits m).toNat * 1024 = m.toNat ∧ 1 ≤ (pwmBits m).toNat ∧ (pwmBits m).toNat ≤ 15

/-- What the assembler makes of a command line decodes to the command written (R79, decision D25): its kind; its mask, a
numeral as itself, ports as their OR; the shape of the payload form, a numeral taking the integer shape its kind requires;
the numeral as the payload's value and list element `b_i` in lane `i`, the other lanes zero (R64). A line whose mask is left
out gives the canonical command (R64, R65); a written mask stays, whatever the kind. That a numeral for a kind without an
integer payload takes one of the two integer shapes is the model's choice (assumption 16). -/
def Obligations.AssembledCommandsDecodeToWhatIsWritten : Prop :=
  ∀ (p : Params) (k : Kind) (me : MaskExpr) (pe : PayloadExpr) (w : CmdWord),
    assemble p (.command k me pe) = some w →
    ∃ i, decode w = .ok i ∧ i.kind = k ∧ i.payload.toNat < 2 ^ (8 * i.shape.byteCount) ∧
      (me = .omitted → i.mask = 0 ∧ i.canonical = true) ∧
      (∀ ps, me = .ports ps → i.mask = maskOfPorts p.ports ps) ∧
      (∀ n, me = .numeral n → i.mask.toNat = n) ∧
      (pe = .omitted → i.shape = .none) ∧
      (∀ bs, pe = .list bs → ((bs.length = 3 ∧ i.shape = .arr3) ∨ (bs.length = 6 ∧ i.shape = .arr6)) ∧
        ∀ j b, bs[j]? = some b → i.payload.toNat / 256 ^ j % 256 = b) ∧
      (∀ n, pe = .numeral n → i.payload.toNat = n ∧ (i.shape = .u8 ∨ i.shape = .u16) ∧
        (requiredShape k = .u8 ∨ requiredShape k = .u16 → i.shape = requiredShape k))

/-! ### Reset and the invariant -/

/-- After reset no command is in progress, no frame and no status has been produced, and `ci` is 0 (R200 and R29, decision
D19). The parameters stand at R6's defaults (assumptions 5 to 10). -/
def Obligations.ResetIsIdle : Prop :=
  State.reset.cmds = [] ∧ State.reset.status = none ∧ State.reset.frame = [] ∧ State.reset.results = [] ∧
  State.reset.ci = 0 ∧ State.reset.params.Wf ∧ State.reset.params.tagU8 = 1 ∧ State.reset.params.tagU16 = 2 ∧
  State.reset.params.syncEnc = 1 ∧ State.reset.params.lenArr6 = 10 ∧ State.reset.params.addrColorsRgbs = 46 ∧
  State.reset.params.addrPulseDigital3 = 71 ∧
  Port.all.map State.reset.params.ports.bit = [1, 2, 4, 8, 16, 32, 64, 128, 256, 512, 1024, 2048, 4096, 8192]

/-- The invariant holds after reset. -/
def Obligations.ResetMeetsTheInvariant : Prop := State.reset.Inv

/-- Every step keeps the invariant, from every state that meets it: one result for each command counted, the ports show
the last of them, and every frame on record is laid out as R70 says, for a register of R27. -/
def Obligations.EveryStepKeepsTheInvariant : Prop :=
  ∀ s t : State, s.Inv → step s = .next t → t.Inv

/-! ### The assembler's refusals -/

/-- Which lines have a command word (R79, decision D25): exactly those whose mask is written, or is left out for one of the
kinds that ignore it, with a numeral of at most 65535, and whose payload is left out, a numeral that fits the integer
shape its kind requires, or a list of three or six elements of at most 255. The raw form gives its word. Two points are the
model's choice (assumption 16): a mask of no ports at all, which R79 gives no written form, is admitted (as R26's empty
selection, mask 0), and a numeral for a kind without an integer payload may be up to 65535. -/
def Obligations.AssemblerRefusesExactlyIllFormedLines : Prop :=
  (∀ (p : Params) (k : Kind) (me : MaskExpr) (pe : PayloadExpr),
    (∃ w, assemble p (.command k me pe) = some w) ↔ MaskFormAdmitted k me ∧ PayloadFormAdmitted k pe) ∧
  ∀ (p : Params) (w : CmdWord), assemble p (.word w) = some w
end

