-- ==== Sys2Proof/Laws/Assembler.lean ====
section
/-! SUPPORT. Where the elements of a list stand in the lanes, and what the assembler makes of each form (R64, R79). -/

namespace Sys2Proof.Machine

/-- Elements that are bytes fill as many lanes as there are elements, and no more. -/
theorem lanesOfBytes_lt : ∀ bs : List Nat, (∀ b ∈ bs, b ≤ 255) → lanesOfBytes bs < 256 ^ bs.length
  | [], _ => by simp [lanesOfBytes]
  | b :: bs, h => by
    have ih := lanesOfBytes_lt bs fun b hb => h b (by simp [hb])
    have hb := h b (by simp)
    simp only [lanesOfBytes, List.length_cons, Nat.pow_succ]
    omega

/-- Element `b_j` stands in lane `j`. -/
theorem lanesOfBytes_lane : ∀ (bs : List Nat), (∀ b ∈ bs, b ≤ 255) → ∀ (j b : Nat), bs[j]? = some b →
    lanesOfBytes bs / 256 ^ j % 256 = b
  | [], _, _, _, h => by simp at h
  | c :: bs, hb, 0, b, h => by
    have := hb c (by simp)
    simp only [List.getElem?_cons_zero, Option.some.injEq] at h
    simp only [lanesOfBytes, Nat.pow_zero, Nat.div_one]
    omega
  | c :: bs, hb, j + 1, b, h => by
    have hc := hb c (by simp)
    have ih := lanesOfBytes_lane bs (fun b hb' => hb b (by simp [hb'])) j b (by simpa using h)
    rw [Nat.pow_succ, Nat.mul_comm, ← Nat.div_div_eq_div_mul, lanesOfBytes,
      show (c + 256 * lanesOfBytes bs) / 256 = lanesOfBytes bs by omega]
    exact ih

/-- A numeral takes an integer shape, the required one where that is an integer shape. -/
theorem numeralShape_cases (required : Shape) (n : Nat) :
    (required = .u8 ∧ numeralShape required n = .u8) ∨ (required = .u16 ∧ numeralShape required n = .u16) ∨
    (required ≠ .u8 ∧ required ≠ .u16 ∧ numeralShape required n = if n ≤ 255 then .u8 else .u16) := by
  cases required <;> simp [numeralShape]

/-- A numeral fits the shape it takes exactly if it is at most 65535, and at most 255 where U8 is required. -/
theorem numeralShape_fits (required : Shape) (n : Nat) :
    n < 2 ^ (8 * (numeralShape required n).byteCount) ↔ n ≤ 65535 ∧ (required = .u8 → n ≤ 255) := by
  obtain ⟨h, e⟩ | ⟨h, e⟩ | ⟨h, -, e⟩ := numeralShape_cases required n
  · rw [e]; simp [h, Shape.byteCount]; omega
  · rw [e]; simp [h, Shape.byteCount]; omega
  · rw [e]; split <;> simp [h, Shape.byteCount] <;> omega

/-- What a command line that has a word assembles to. -/
theorem assemble_command {p : Params} {k : Kind} {me : MaskExpr} {pe : PayloadExpr} {w : CmdWord}
    (h : assemble p (.command k me pe) = some w) :
    ∃ m sh l, assembleMask p.ports k me = some m ∧ assemblePayload (requiredShape k) pe = some (sh, l) ∧
      w = encode (instrOf k sh m l) := by
  simp only [assemble] at h
  split at h
  · rename_i m sh l hm hp
    exact ⟨m, sh, l, hm, hp, (Option.some.inj h).symm⟩
  · cases h

end Sys2Proof.Machine
end

