-- ==== Sys2Proof/Laws/Decode.lean ====
section
/-! SUPPORT. The small lemmas of the decoder and the encoder: fields of a packed word, and the code tables. -/

namespace Sys2Proof

/-- Concatenation as arithmetic. -/
theorem append_toNat {n m : Nat} (x : BitVec n) (y : BitVec m) : (x ++ y).toNat = x.toNat * 2 ^ m + y.toNat := by
  rw [BitVec.toNat_append, ← Nat.shiftLeft_add_eq_or_of_lt y.isLt, Nat.shiftLeft_eq]

/-- A field as arithmetic. -/
theorem field_toNat {n : Nat} (w : BitVec n) (lo len : Nat) :
    (w.extractLsb' lo len).toNat = w.toNat / 2 ^ lo % 2 ^ len := by
  rw [BitVec.extractLsb'_toNat, Nat.shiftRight_eq_div_pow]

/-- A packed word as arithmetic. -/
theorem packWord_toNat (k sh : BitVec 4) (m : Mask) (l : Lanes) :
    (packWord k sh m l).toNat = ((k.toNat * 2 ^ 4 + sh.toNat) * 2 ^ 16 + m.toNat) * 2 ^ 48 + l.toNat := by
  have e : packWord k sh m l = (((k ++ sh : BitVec (4 + 4)) ++ m : BitVec (4 + 4 + 16)) ++ l : BitVec (4 + 4 + 16 + 48)) :=
    rfl
  rw [e, append_toNat, append_toNat, append_toNat]

@[simp] theorem kindField_packWord (k sh : BitVec 4) (m : Mask) (l : Lanes) : kindField (packWord k sh m l) = k := by
  apply BitVec.eq_of_toNat_eq
  rw [kindField, field_toNat, packWord_toNat]
  have := k.isLt; have := sh.isLt; have := m.isLt; have := l.isLt
  omega

@[simp] theorem shapeField_packWord (k sh : BitVec 4) (m : Mask) (l : Lanes) : shapeField (packWord k sh m l) = sh := by
  apply BitVec.eq_of_toNat_eq
  rw [shapeField, field_toNat, packWord_toNat]
  have := k.isLt; have := sh.isLt; have := m.isLt; have := l.isLt
  omega

@[simp] theorem maskField_packWord (k sh : BitVec 4) (m : Mask) (l : Lanes) : maskField (packWord k sh m l) = m := by
  apply BitVec.eq_of_toNat_eq
  rw [maskField, field_toNat, packWord_toNat]
  have := k.isLt; have := sh.isLt; have := m.isLt; have := l.isLt
  omega

@[simp] theorem payloadField_packWord (k sh : BitVec 4) (m : Mask) (l : Lanes) : payloadField (packWord k sh m l) = l := by
  apply BitVec.eq_of_toNat_eq
  rw [payloadField, field_toNat, packWord_toNat]
  have := k.isLt; have := sh.isLt; have := m.isLt; have := l.isLt
  omega

/-- A word is made of its four fields, and of nothing else. -/
theorem packWord_fields (w : CmdWord) : packWord (kindField w) (shapeField w) (maskField w) (payloadField w) = w := by
  apply BitVec.eq_of_toNat_eq
  simp only [packWord_toNat, kindField, shapeField, maskField, payloadField, field_toNat]
  omega

@[simp] theorem kindOfCode_code (k : Kind) : kindOfCode k.code = some k := by cases k <;> rfl

/-- A code that names a kind is that kind's code. -/
theorem code_of_kindOfCode {c : BitVec 4} {k : Kind} (h : kindOfCode c = some k) : k.code = c := by
  revert c k; decide

/-- Only the code 15 names no kind. -/
theorem kindOfCode_none {c : BitVec 4} : kindOfCode c = none ↔ c = 15 := by
  revert c; decide

/-- The shape a code names has that code, and is well formed. -/
@[simp] theorem code_shapeOfCode (c : BitVec 4) : (shapeOfCode c).code = c ∧ (shapeOfCode c).wf = true := by
  revert c; decide

/-- A well-formed shape is the shape its code names. -/
theorem shapeOfCode_code {sh : Shape} (h : sh.wf = true) : shapeOfCode sh.code = sh := by
  cases sh with
  | reserved c =>
    revert c
    decide
  | _ => rfl

@[simp] theorem instrOf_kind (k : Kind) (sh : Shape) (m : Mask) (l : Lanes) : (instrOf k sh m l).kind = k := by
  cases k <;> rfl
@[simp] theorem instrOf_shape (k : Kind) (sh : Shape) (m : Mask) (l : Lanes) : (instrOf k sh m l).shape = sh := by
  cases k <;> rfl
@[simp] theorem instrOf_mask (k : Kind) (sh : Shape) (m : Mask) (l : Lanes) : (instrOf k sh m l).mask = m := by
  cases k <;> rfl
@[simp] theorem instrOf_payload (k : Kind) (sh : Shape) (m : Mask) (l : Lanes) : (instrOf k sh m l).payload = l := by
  cases k <;> rfl

/-- A command is made of its kind, shape, mask and payload, and of nothing else. -/
theorem instrOf_fields (i : Instr) : instrOf i.kind i.shape i.mask i.payload = i := by cases i <;> rfl

end Sys2Proof
end

