-- ==== Sys2Proof/Laws/Frame.lean ====
section
/-! SUPPORT. The small lemmas of the serializer and of its readers. -/

namespace Sys2Proof.Machine

@[simp] theorem lo8_toNat (v : BitVec 16) : (lo8 v).toNat = v.toNat % 256 := by
  rw [lo8, field_toNat]; norm_num

@[simp] theorem hi8_toNat (v : BitVec 16) : (hi8 v).toNat = v.toNat / 256 := by
  rw [hi8, field_toNat]
  have := v.isLt
  omega

theorem lane_toNat (l : Lanes) (i : Nat) : (lane l i).toNat = l.toNat / 2 ^ (8 * i) % 256 := by
  rw [lane, field_toNat]; norm_num

@[simp] theorem payloadU8_toNat (l : Lanes) : (payloadU8 l).toNat = l.toNat % 256 := by
  rw [payloadU8, field_toNat]; norm_num

@[simp] theorem payloadU16_toNat (l : Lanes) : (payloadU16 l).toNat = l.toNat % 65536 := by
  rw [payloadU16, field_toNat]; norm_num

@[simp] theorem pwmBits_toNat (m : Mask) : (pwmBits m).toNat = m.toNat / 1024 := by
  rw [pwmBits, field_toNat, BitVec.toNat_ushiftRight, Nat.shiftRight_eq_div_pow]
  have := m.isLt
  omega

/-- A frame has seven elements beside its payload (R70). -/
theorem layFrame_length (len addr tag : Byte) (bs : List Byte) : (layFrame len addr tag bs).length = bs.length + 7 := by
  simp [layFrame]

theorem mapM_byte (bs : List Byte) : (bs.map Element.byte).mapM Element.byte? = some bs := by
  induction bs with
  | nil => rfl
  | cons b bs ih => simp [ih, Element.byte?]

/-- A laid-out frame asks for one write: its payload, to its address. -/
theorem frameRequest_layFrame (len addr tag : Byte) (bs : List Byte) :
    frameRequest (layFrame len addr tag bs) = some ⟨addr, bs⟩ := by
  have e : layFrame len addr tag bs =
      .sync :: .byte 2 :: .byte len :: .byte addr :: .byte 255 :: .byte tag :: (bs.map .byte ++ [.byte 0]) := by
    simp [layFrame]
  rw [e, frameRequest, List.dropLast_concat, mapM_byte]
  rfl

/-- A laid-out frame whose length element counts the elements after it is read back whole, whatever follows. -/
theorem readFrame_layFrame {len : Byte} (addr tag : Byte) {bs : List Byte} (h : len.toNat = bs.length + 4)
    (rest : List Element) : readFrame (layFrame len addr tag bs ++ rest) = some (layFrame len addr tag bs, rest) := by
  obtain ⟨tl, htl, e⟩ : ∃ tl : Frame, tl.length = len.toNat ∧
      layFrame len addr tag bs = .sync :: .byte 2 :: .byte len :: tl :=
    ⟨([addr, 255, tag] ++ bs ++ [0]).map .byte, by simp [h], rfl⟩
  rw [e]
  simp only [List.cons_append, readFrame]
  rw [if_pos (by rw [List.length_append]; omega), ← htl, List.take_left, List.drop_left]

end Sys2Proof.Machine
end

