-- ==== Sys2Proof/Laws/State.lean ====
section
/-! SUPPORT. One lemma per field for each operation that updates the state, so that no proof unfolds a record update. -/

namespace Sys2Proof.Machine

@[simp] theorem takeCommand_cmds (s : State) (r : List CmdWord) : (s.takeCommand r).cmds = r := rfl
@[simp] theorem takeCommand_status (s : State) (r : List CmdWord) : (s.takeCommand r).status = s.status := rfl
@[simp] theorem takeCommand_frame (s : State) (r : List CmdWord) : (s.takeCommand r).frame = s.frame := rfl
@[simp] theorem takeCommand_results (s : State) (r : List CmdWord) : (s.takeCommand r).results = s.results := rfl
@[simp] theorem takeCommand_ci (s : State) (r : List CmdWord) : (s.takeCommand r).ci = s.ci := rfl
@[simp] theorem takeCommand_params (s : State) (r : List CmdWord) : (s.takeCommand r).params = s.params := rfl

@[simp] theorem emit_cmds (s : State) (f : Frame) : (s.emit f).cmds = s.cmds := rfl
@[simp] theorem emit_status (s : State) (f : Frame) : (s.emit f).status = some .ok := rfl
@[simp] theorem emit_frame (s : State) (f : Frame) : (s.emit f).frame = f := rfl
@[simp] theorem emit_results (s : State) (f : Frame) : (s.emit f).results = s.results ++ [.ok f] := rfl
@[simp] theorem emit_ci (s : State) (f : Frame) : (s.emit f).ci = s.ci + 1 := rfl
@[simp] theorem emit_params (s : State) (f : Frame) : (s.emit f).params = s.params := rfl

@[simp] theorem takeFault_cmds (s : State) (x : CommandFault) : (s.takeFault x).cmds = s.cmds := rfl
@[simp] theorem takeFault_status (s : State) (x : CommandFault) : (s.takeFault x).status = some x.status := rfl
@[simp] theorem takeFault_frame (s : State) (x : CommandFault) : (s.takeFault x).frame = [] := rfl
@[simp] theorem takeFault_results (s : State) (x : CommandFault) :
    (s.takeFault x).results = s.results ++ [.fault x] := rfl
@[simp] theorem takeFault_ci (s : State) (x : CommandFault) : (s.takeFault x).ci = s.ci + 1 := rfl
@[simp] theorem takeFault_params (s : State) (x : CommandFault) : (s.takeFault x).params = s.params := rfl

@[simp] theorem withFetchWord_cmds (s : State) (n w : Nat) :
    (s.withFetchWord n w).cmds = BitVec.ofNat 72 (w % 2 ^ n) :: s.cmds := rfl
@[simp] theorem withFetchWord_status (s : State) (n w : Nat) : (s.withFetchWord n w).status = s.status := rfl
@[simp] theorem withFetchWord_frame (s : State) (n w : Nat) : (s.withFetchWord n w).frame = s.frame := rfl
@[simp] theorem withFetchWord_results (s : State) (n w : Nat) : (s.withFetchWord n w).results = s.results := rfl
@[simp] theorem withFetchWord_ci (s : State) (n w : Nat) : (s.withFetchWord n w).ci = s.ci := rfl
@[simp] theorem withFetchWord_params (s : State) (n w : Nat) : (s.withFetchWord n w).params = s.params := rfl

/-- The frame stream grows by the frame emitted. -/
@[simp] theorem emit_frameStream (s : State) (f : Frame) : (s.emit f).frameStream = s.frameStream ++ [f] := by
  simp [State.frameStream, Result.frame?]

/-- A fault leaves a gap in the frame stream. -/
@[simp] theorem takeFault_frameStream (s : State) (x : CommandFault) :
    (s.takeFault x).frameStream = s.frameStream := by
  simp [State.frameStream, Result.frame?]

@[simp] theorem takeCommand_frameStream (s : State) (r : List CmdWord) :
    (s.takeCommand r).frameStream = s.frameStream := rfl

/-- `emit` is the update `afterFrame` says field by field. -/
theorem emit_eq_afterFrame (s : State) (f : Frame) : s.emit f = s.afterFrame f := rfl

/-- `takeFault` is the update `afterFault` says field by field, with the fault's own status. -/
theorem takeFault_eq_afterFault (s : State) (x : CommandFault) : s.takeFault x = s.afterFault x.status x := rfl

end Sys2Proof.Machine
end

