-- ==== Sys2Proof/Laws/Ops.lean ====
section
/-! SUPPORT. What each shared operation can do, said once: the checks of the stages, the table look-up, and what any
command and any step can answer. -/

namespace Sys2Proof.Machine

/-! ### The checks of the stages -/

@[simp] theorem construct_match (k : Kind) (sh : Shape) (s : State) (a : Answer) : construct k sh sh s a = a := by
  simp [construct]

@[simp] theorem construct_mismatch {sh required : Shape} (h : sh ≠ required) (k : Kind) (s : State) (a : Answer) :
    construct k required sh s a = .next (s.takeFault (.invalidPayloadShape k sh)) := by
  simp [construct, h]

/-- Construction goes on where the shape is the kind's, and else ends in `InvalidPayloadShape`. -/
theorem construct_cases (k : Kind) (required sh : Shape) (s : State) (a : Answer) :
    (sh = required ∧ construct k required sh s a = a) ∨
    (sh ≠ required ∧ construct k required sh s a = .next (s.takeFault (.invalidPayloadShape k sh))) := by
  by_cases h : sh = required
  · exact .inl ⟨h, by simp [construct, h]⟩
  · exact .inr ⟨h, by simp [h]⟩

@[simp] theorem validate_true (k : Kind) (m : Mask) (s : State) (a : Answer) : validate k m true s a = a := rfl

@[simp] theorem validate_false (k : Kind) (m : Mask) (s : State) (a : Answer) :
    validate k m false s a = .next (s.takeFault (.invalidMaskSelection k m)) := rfl

/-- Validation goes on where the mask is legal, and else ends in `InvalidMaskSelection`. -/
theorem validate_cases (k : Kind) (m : Mask) (b : Bool) (s : State) (a : Answer) :
    (b = true ∧ validate k m b s a = a) ∨
    (b = false ∧ validate k m b s a = .next (s.takeFault (.invalidMaskSelection k m))) := by
  cases b <;> simp

/-- The table look-up finds an address only in a row whose port's constant is the whole mask. -/
theorem lookupPort_some {t : PortTable} {rows : List (Port × Byte)} {m : Mask} {addr : Byte}
    (h : lookupPort t rows m = some addr) : ∃ r ∈ rows, m = t.bit r.1 ∧ addr = r.2 := by
  induction rows with
  | nil => cases h
  | cons r rest ih =>
    simp only [lookupPort] at h
    split at h
    · exact ⟨r, by simp, ‹_›, by simpa using h.symm⟩
    · obtain ⟨q, hq, h1, h2⟩ := ih h
      exact ⟨q, by simp [hq], h1, h2⟩

/-- The table look-up finds nothing exactly where no row's port has the mask for its constant. -/
theorem lookupPort_none {t : PortTable} {rows : List (Port × Byte)} {m : Mask} :
    lookupPort t rows m = none ↔ ∀ r ∈ rows, m ≠ t.bit r.1 := by
  induction rows with
  | nil => simp [lookupPort]
  | cons r rest ih =>
    simp only [lookupPort, List.forall_mem_cons]
    split
    · simp [*]
    · simp [*]

/-- Where the ports keep apart, the look-up finds the row of the port whose constant is the mask. -/
theorem lookupPort_of_row {t : PortTable} {rows : List (Port × Byte)} {q : Port} {addr : Byte}
    (apart : ∀ p ∈ rows.map (·.1), t.bit q = t.bit p → q = p) (nodup : (rows.map (·.1)).Nodup)
    (h : (q, addr) ∈ rows) : lookupPort t rows (t.bit q) = some addr := by
  induction rows with
  | nil => cases h
  | cons r rest ih =>
    simp only [List.map_cons, List.nodup_cons] at nodup
    simp only [lookupPort]
    rcases List.mem_cons.1 h with h | h
    · simp [← h]
    · have hq : q ∈ rest.map (·.1) := List.mem_map.2 ⟨_, h, rfl⟩
      rw [if_neg fun e => nodup.1 (apart r.1 (by simp) e ▸ hq)]
      exact ih (fun p hp => apart p (by simp only [List.map_cons]; exact List.mem_cons_of_mem _ hp)) nodup.2 h

/-- Resolution goes on with the address of a row whose port's constant is the whole mask, or, where there is no such
row, ends in `InvalidMaskSelection`. -/
theorem resolveMask_cases (k : Kind) (rows : List (Port × Byte)) (m : Mask) (s : State) (a : Byte → Answer) :
    (∃ r ∈ rows, m = s.params.ports.bit r.1 ∧ lookupPort s.params.ports rows m = some r.2 ∧
      resolveMask k rows m s a = a r.2) ∨
    ((∀ r ∈ rows, m ≠ s.params.ports.bit r.1) ∧
      resolveMask k rows m s a = .next (s.takeFault (.invalidMaskSelection k m))) := by
  unfold resolveMask
  split
  · rename_i addr h
    obtain ⟨r, hr, h1, rfl⟩ := lookupPort_some h
    exact .inl ⟨r, hr, h1, h, rfl⟩
  · rename_i h
    exact .inr ⟨lookupPort_none.1 h, rfl⟩

/-! ### What a command and a step can answer -/

/-- A command always completes, in one of two ways: it emits one frame, or it takes one fault. -/
theorem exec_cases (i : Instr) (s : State) :
    (∃ f, exec i s = .next (s.emit f)) ∨ (∃ x, exec i s = .next (s.takeFault x)) := by
  have fixed : ∀ (k : Kind) (required sh : Shape) (f : Frame),
      (∃ g, construct k required sh s (.next (s.emit f)) = .next (s.emit g)) ∨
      (∃ x, construct k required sh s (.next (s.emit f)) = .next (s.takeFault x)) := fun k required sh f => by
    obtain ⟨-, h⟩ | ⟨-, h⟩ := construct_cases k required sh s (.next (s.emit f))
    · exact .inl ⟨f, h⟩
    · exact .inr ⟨_, h⟩
  have ranged : ∀ (k : Kind) (required sh : Shape) (m : Mask) (b : Bool) (f : Frame),
      (∃ g, construct k required sh s (validate k m b s (.next (s.emit f))) = .next (s.emit g)) ∨
      (∃ x, construct k required sh s (validate k m b s (.next (s.emit f))) = .next (s.takeFault x)) :=
    fun k required sh m b f => by
      obtain ⟨-, h⟩ | ⟨-, h⟩ := construct_cases k required sh s (validate k m b s (.next (s.emit f)))
      · rw [h]
        cases b
        · exact .inr ⟨_, rfl⟩
        · exact .inl ⟨f, rfl⟩
      · exact .inr ⟨_, h⟩
  have keyed : ∀ (k : Kind) (required sh : Shape) (rows : List (Port × Byte)) (m : Mask) (f : Byte → Frame),
      (∃ g, construct k required sh s (resolveMask k rows m s fun a => .next (s.emit (f a))) = .next (s.emit g)) ∨
      (∃ x, construct k required sh s (resolveMask k rows m s fun a => .next (s.emit (f a))) =
        .next (s.takeFault x)) :=
    fun k required sh rows m f => by
      obtain ⟨-, h⟩ | ⟨-, h⟩ := construct_cases k required sh s (resolveMask k rows m s fun a => .next (s.emit (f a)))
      · rw [h]
        obtain ⟨r, -, -, -, h'⟩ | ⟨-, h'⟩ := resolveMask_cases k rows m s fun a => .next (s.emit (f a))
        · exact .inl ⟨_, h'⟩
        · exact .inr ⟨_, h'⟩
      · exact .inr ⟨_, h⟩
  cases i with
  | setOutput sh m l => exact fixed _ _ _ _
  | clearOutput sh m l => exact fixed _ _ _ _
  | toggleOutput sh m l => exact fixed _ _ _ _
  | startPwm sh m l => exact ranged _ _ _ _ _ _
  | stopPwm sh m l => exact ranged _ _ _ _ _ _
  | pwmFrequency sh m l => exact keyed _ _ _ _ _ _
  | ledCurrent sh m l => exact keyed _ _ _ _ _ _
  | pulsePeriod sh m l => exact keyed _ _ _ _ _ _
  | colorsRgb sh m l => exact keyed _ _ _ _ _ _
  | colorsRgbs sh m l => exact fixed _ _ _ _
  | registerSetOutputs sh m l => exact fixed _ _ _ _
  | registerClearOutputs sh m l => exact fixed _ _ _ _
  | registerToggleOutputs sh m l => exact fixed _ _ _ _
  | registerStartPwm sh m l => exact fixed _ _ _ _
  | registerStopPwm sh m l => exact fixed _ _ _ _

/-- What a step that answers a next state did: it took the first command word, and either that word decodes to a command,
which ran, or its kind code is 15 and the step took `IllegalKind`. -/
theorem step_cases {s t : State} (h : step s = .next t) :
    ∃ w rest, s.cmds = w :: rest ∧
      ((∃ i, decode w = .ok i ∧ exec i (s.takeCommand rest) = .next t) ∨
       (∃ e, decode w = .error e ∧ t = (s.takeCommand rest).takeFault (.illegalKind w))) := by
  unfold step at h
  split at h
  · cases h
  · rename_i w rest hc
    refine ⟨w, rest, hc, ?_⟩
    split at h
    · rename_i e he
      exact .inr ⟨e, he, by simpa using h.symm⟩
    · rename_i i hi
      exact .inl ⟨i, hi, h⟩

end Sys2Proof.Machine
end

