-- ==== Sys2Proof/Laws/PerInstr.lean ====
section
/-! SUPPORT. Facts said of every instruction, one lemma per constructor of `Instr`. -/

namespace Sys2Proof

/-- The word of a command holds its kind's code, its shape's code, its mask and its payload, each in the field R60 gives
it. -/
def Laws.EncodeFields.Statement (i : Instr) : Prop :=
  kindField (encode i) = i.kind.code ∧ shapeField (encode i) = i.shape.code ∧
  maskField (encode i) = i.mask ∧ payloadField (encode i) = i.payload

theorem Laws.EncodeFields.setOutput (sh : Shape) (m : Mask) (l : Lanes) :
    Laws.EncodeFields.Statement (.setOutput sh m l) := by
  simp [Laws.EncodeFields.Statement, encode]

theorem Laws.EncodeFields.clearOutput (sh : Shape) (m : Mask) (l : Lanes) :
    Laws.EncodeFields.Statement (.clearOutput sh m l) := by
  simp [Laws.EncodeFields.Statement, encode]

theorem Laws.EncodeFields.toggleOutput (sh : Shape) (m : Mask) (l : Lanes) :
    Laws.EncodeFields.Statement (.toggleOutput sh m l) := by
  simp [Laws.EncodeFields.Statement, encode]

theorem Laws.EncodeFields.startPwm (sh : Shape) (m : Mask) (l : Lanes) :
    Laws.EncodeFields.Statement (.startPwm sh m l) := by
  simp [Laws.EncodeFields.Statement, encode]

theorem Laws.EncodeFields.stopPwm (sh : Shape) (m : Mask) (l : Lanes) :
    Laws.EncodeFields.Statement (.stopPwm sh m l) := by
  simp [Laws.EncodeFields.Statement, encode]

theorem Laws.EncodeFields.pwmFrequency (sh : Shape) (m : Mask) (l : Lanes) :
    Laws.EncodeFields.Statement (.pwmFrequency sh m l) := by
  simp [Laws.EncodeFields.Statement, encode]

theorem Laws.EncodeFields.ledCurrent (sh : Shape) (m : Mask) (l : Lanes) :
    Laws.EncodeFields.Statement (.ledCurrent sh m l) := by
  simp [Laws.EncodeFields.Statement, encode]

theorem Laws.EncodeFields.pulsePeriod (sh : Shape) (m : Mask) (l : Lanes) :
    Laws.EncodeFields.Statement (.pulsePeriod sh m l) := by
  simp [Laws.EncodeFields.Statement, encode]

theorem Laws.EncodeFields.colorsRgb (sh : Shape) (m : Mask) (l : Lanes) :
    Laws.EncodeFields.Statement (.colorsRgb sh m l) := by
  simp [Laws.EncodeFields.Statement, encode]

theorem Laws.EncodeFields.colorsRgbs (sh : Shape) (m : Mask) (l : Lanes) :
    Laws.EncodeFields.Statement (.colorsRgbs sh m l) := by
  simp [Laws.EncodeFields.Statement, encode]

theorem Laws.EncodeFields.registerSetOutputs (sh : Shape) (m : Mask) (l : Lanes) :
    Laws.EncodeFields.Statement (.registerSetOutputs sh m l) := by
  simp [Laws.EncodeFields.Statement, encode]

theorem Laws.EncodeFields.registerClearOutputs (sh : Shape) (m : Mask) (l : Lanes) :
    Laws.EncodeFields.Statement (.registerClearOutputs sh m l) := by
  simp [Laws.EncodeFields.Statement, encode]

theorem Laws.EncodeFields.registerToggleOutputs (sh : Shape) (m : Mask) (l : Lanes) :
    Laws.EncodeFields.Statement (.registerToggleOutputs sh m l) := by
  simp [Laws.EncodeFields.Statement, encode]

theorem Laws.EncodeFields.registerStartPwm (sh : Shape) (m : Mask) (l : Lanes) :
    Laws.EncodeFields.Statement (.registerStartPwm sh m l) := by
  simp [Laws.EncodeFields.Statement, encode]

theorem Laws.EncodeFields.registerStopPwm (sh : Shape) (m : Mask) (l : Lanes) :
    Laws.EncodeFields.Statement (.registerStopPwm sh m l) := by
  simp [Laws.EncodeFields.Statement, encode]

end Sys2Proof
end

