-- ==== Sys2Proof/Tests/Slice0.lean ====
section
/-! SUPPORT. The model's own tests. Expected values come from spec/95_test_vectors.md (named S.., V-.., P..) or, where
said, by hand from the rule named; witnesses show that each statement's hypotheses can be met. -/

open Sys2Proof Sys2Proof.Machine Sys2Proof.Claims

namespace Sys2Proof.Tests

/-! ### Helpers -/

/-- The machine after reset with these command words presented. -/
def presented (ws : List CmdWord) : State := { State.reset with cmds := ws }

/-- Status and frame of the first command after reset, the word given as a number. -/
def outcome (w : Nat) : Option (Option Status × Frame) :=
  (nextState? (step (State.reset.withFetchWord 72 w))).map fun t => (t.status, t.frame)

/-- A frame was emitted, with these bytes after `true` (tags at their defaults: U8 = 1, U16 = 2). -/
def emits (bs : List Byte) : Option (Option Status × Frame) := some (some .ok, trueThen bs)

/-- The command ended in a fault, with no frame. -/
def faults (c : Status) : Option (Option Status × Frame) := some (some c, [])

/-! ### WellFormed: a reserved shape with a code that is not reserved is no term of any word -/

theorem test_wf_refuses_reserved_code_2 : (Instr.setOutput (.reserved 2) 0 0).wf = false := by decide
theorem test_wf_refuses_reserved_code_4 : (Instr.colorsRgbs (.reserved 4) 0 0).wf = false := by decide
theorem test_wf_takes_reserved_code_5 : (Instr.setOutput (.reserved 5) 0 0).wf = true := by decide
theorem test_canonical_refuses_junk_lane : (Instr.pwmFrequency .u16 1024 0xAA1234).canonical = false := by decide
theorem test_canonical_refuses_unread_mask : (Instr.registerStartPwm .u8 0x1400 5).canonical = false := by decide

/-! ### Decoding: words written out bit by bit from the table's encodings -/

theorem test_decode_clearOutput :
    decode 0b000100000000000100000000000000000000000000000000000000000000000000000000 = .ok (.clearOutput .none 256 0) := by
  decide
theorem test_decode_toggleOutput : decode 0x203FFF000000000000 = .ok (.toggleOutput .none 0x3FFF 0) := by decide
theorem test_decode_startPwm :
    decode 0b001100000001010000000000000000000000000000000000000000000000000000000000 = .ok (.startPwm .none 5120 0) := by
  decide
theorem test_decode_stopPwm : decode 0x403C00000000000000 = .ok (.stopPwm .none 15360 0) := by decide
theorem test_decode_pwmFrequency :
    decode 0b010100100000100000000000000000000000000000000000000000000000000111110100 =
      .ok (.pwmFrequency .u16 2048 500) := by decide
theorem test_decode_ledCurrent : decode 0x610080000000000064 = .ok (.ledCurrent .u8 128 100) := by decide
theorem test_decode_pulsePeriod : decode 0x7220000000000003E8 = .ok (.pulsePeriod .u16 8192 1000) := by decide
theorem test_decode_registerSetOutputs :
    decode 0b101000100000000000000000000000000000000000000000000000000000010000000001 =
      .ok (.registerSetOutputs .u16 0 1025) := by decide
theorem test_decode_registerClearOutputs :
    decode 0xB2000000000000FFFF = .ok (.registerClearOutputs .u16 0 65535) := by decide
theorem test_decode_registerToggleOutputs :
    decode 0xC20000000000000000 = .ok (.registerToggleOutputs .u16 0 0) := by decide
theorem test_decode_registerStopPwm : decode 0xE100000000000000FF = .ok (.registerStopPwm .u8 0 255) := by decide
theorem test_decode_reserved_shape : decode 0x770300000000000000 = .ok (.pulsePeriod (.reserved 7) 768 0) := by decide
/-- P1's word 0 as bytes: F4 01 00 00 00 00 00 08 52. -/
theorem test_decodeBytes_P1 :
    decodeBytes [0xF4, 0x01, 0, 0, 0, 0, 0, 0x08, 0x52] = .ok (.pwmFrequency .u16 2048 500) := by decide
theorem test_decodeTableWord_row : decodeTableWord 72 0x940000000000000000 = some (.colorsRgbs .arr6 0 0) := by decide

/-! ### Commands: at most two vectors a kind -/

theorem test_setOutput_S1 : outcome 0x000401000000000000 = emits [2, 6, 34, 255, 2, 1, 4, 0] := by decide
theorem test_setOutput_V_M15_junk_lanes : outcome 0x000001000000ABCDEF = emits [2, 6, 34, 255, 2, 1, 0, 0] := by decide
theorem test_clearOutput_V_M10 : outcome 0x10FFFF000000000000 = emits [2, 6, 35, 255, 2, 255, 255, 0] := by decide
theorem test_toggleOutput_V_M12 : outcome 0x203FFF000000000000 = emits [2, 6, 36, 255, 2, 255, 63, 0] := by decide
theorem test_toggleOutput_V_M13_no_port : outcome 0x20C000000000000000 = emits [2, 6, 36, 255, 2, 0, 192, 0] := by decide
theorem test_startPwm_S4 : outcome 0x301400000000000000 = emits [2, 5, 81, 255, 1, 5, 0] := by decide
theorem test_startPwm_V_R7 : outcome 0x300401000000000000 = faults .invalidMaskSelection := by decide
theorem test_stopPwm_V_R17 : outcome 0x403C00000000000000 = emits [2, 5, 82, 255, 1, 15, 0] := by decide
theorem test_stopPwm_V_R18 : outcome 0x400000000000000000 = faults .invalidMaskSelection := by decide
theorem test_pwmFrequency_S3 : outcome 0x5208000000000001F4 = emits [2, 6, 74, 255, 2, 244, 1, 0] := by decide
theorem test_pwmFrequency_V_E6 : outcome 0x520C00000000001234 = faults .invalidMaskSelection := by decide
theorem test_ledCurrent_V_E15 : outcome 0x61008000000000007F = emits [2, 5, 86, 255, 1, 127, 0] := by decide
theorem test_ledCurrent_V_E22_shape : outcome 0x62004000000000012C = faults .invalidPayloadShape := by decide
theorem test_pulsePeriod_V_E36 : outcome 0x722000000000000102 = emits [2, 6, 71, 255, 2, 2, 1, 0] := by decide
theorem test_pulsePeriod_S5 : outcome 0x720300000000000000 = faults .invalidMaskSelection := by decide
theorem test_colorsRgb_S2 : outcome 0x8301000000001E140A = emits [2, 7, 84, 255, 1, 10, 20, 30, 0] := by decide
theorem test_colorsRgb_V_E47 : outcome 0x830300000000030201 = faults .invalidMaskSelection := by decide
theorem test_colorsRgbs_V_D20_mask_ignored :
    outcome 0x94FFFF060504030201 = emits [2, 10, 46, 255, 1, 1, 2, 3, 4, 5, 6, 0] := by decide
theorem test_colorsRgbs_V_D23_shape : outcome 0x930000000000030201 = faults .invalidPayloadShape := by decide
theorem test_registerSetOutputs_V_D4 : outcome 0xA2FFFF000000000401 = emits [2, 6, 34, 255, 2, 1, 4, 0] := by decide
theorem test_registerSetOutputs_V_D6 : outcome 0xA00401000000000000 = faults .invalidPayloadShape := by decide
theorem test_registerClearOutputs_V_D7 : outcome 0xB20000000000000401 = emits [2, 6, 35, 255, 2, 1, 4, 0] := by decide
theorem test_registerToggleOutputs_V_D10 : outcome 0xC20000000000000401 = emits [2, 6, 36, 255, 2, 1, 4, 0] := by decide
theorem test_registerStartPwm_V_D14 : outcome 0xD100000000000000FF = emits [2, 5, 81, 255, 1, 255, 0] := by decide
theorem test_registerStopPwm_V_D17 : outcome 0xE1000000000000000F = emits [2, 5, 82, 255, 1, 15, 0] := by decide
theorem test_illegalKind_V_I2 : outcome 0xF20001000000000002 = faults .illegalKind := by decide
theorem test_priority_V_I5 : outcome 0x770300000000000000 = faults .invalidPayloadShape := by decide

/-! ### Frames as bytes, read back, and as requests -/

/-- S1's rendering: 01 02 06 22 FF 02 01 04 00. -/
theorem test_frameBytes_S1 :
    frameBytes defaultParams (frame16 defaultParams 34 1025) = [1, 2, 6, 0x22, 0xFF, 2, 1, 4, 0] := by decide
/-- P2's first request: `MemWrite(62, 2, 258)`, low byte first. -/
theorem test_frameRequest_P2 : frameRequest (frame16 defaultParams 62 258) = some ⟨62, [2, 1]⟩ := by decide
theorem test_readFrame_cuts_the_stream :
    readFrame (frame8 defaultParams 81 5 ++ frame8 defaultParams 82 2) =
      some (frame8 defaultParams 81 5, frame8 defaultParams 82 2) := by decide
/-- A stream cut short holds no frame (by hand from R77). -/
theorem test_readFrame_refuses_a_cut_frame : readFrame (trueThen [2, 5, 81, 255]) = none := by decide
theorem test_26_addresses :
    ((targetRegisters defaultParams).map fun r => r.addr.toNat).dedup.length = frameAddresses.length ∧
    ∀ r ∈ targetRegisters defaultParams, r.addr.toNat ∈ frameAddresses := by decide

/-! ### The assembler (R79) -/

theorem test_assemble_S1 :
    assemble defaultParams (.command .setOutput (.ports [.pokeLed0, .digital0]) .omitted) = some 0x000401000000000000 := by
  decide
theorem test_assemble_S2 :
    assemble defaultParams (.command .colorsRgb (.ports [.rgb0]) (.list [10, 20, 30])) = some 0x8301000000001E140A := by
  decide
theorem test_assemble_mask_left_out :
    assemble defaultParams (.command .registerSetOutputs .omitted (.numeral 1025)) = some 0xA20000000000000401 := by decide
/-- "A numeral that does not fit the integer shape (e.g. 300 for LedCurrent)". -/
theorem test_assemble_refuses_300 :
    assemble defaultParams (.command .ledCurrent (.ports [.led0]) (.numeral 300)) = none := by decide
theorem test_assemble_refuses_four_elements :
    assemble defaultParams (.command .colorsRgb (.ports [.rgb0]) (.list [1, 2, 3, 4])) = none := by decide
/-- A mask must be written for a kind that reads it (by hand from R79). -/
theorem test_assemble_refuses_missing_mask : assemble defaultParams (.command .setOutput .omitted .omitted) = none := by
  decide

/-! ### The state: reset, end of a run, a fault in the middle -/

theorem test_reset_has_no_command : nextState? (step State.reset) = none := by decide
/-- P3's first three commands, one step each: the ports, the count and the frame stream after the two faults. -/
def afterP3 : Option State :=
  ((nextState? (step (presented [0x8301000000001E140A, 0x720300000000000000]))).bind fun t => nextState? (step t))
theorem test_P3_fault_counts_and_leaves_a_gap :
    afterP3.map (fun t => (t.ci, t.statusList, t.frameStream)) =
      some (2, [.ok, .invalidMaskSelection], [trueThen [2, 7, 84, 255, 1, 10, 20, 30, 0]]) := by decide
theorem test_P3_fault_clears_the_frame_port :
    afterP3.map (fun t => (t.status, t.frame, t.cmds)) = some (some .invalidMaskSelection, [], []) := by decide
theorem test_message_of_a_pwm_fault :
    (CommandFault.invalidMaskSelection .stopPwm 0).message? = some "only Digital0..Digital3 may be selected" ∧
    (CommandFault.invalidMaskSelection .ledCurrent 0).message? = none := by decide

/-! ### Witnesses: the hypotheses of every statement can be met, each clause at a boundary of its range -/

/-- A table with `Digital1` and `Digital3` the other way round, which the source allows too. -/
def swappedPorts : PortTable := { defaultPorts with digital1 := 8192, digital3 := 2048 }

theorem witness_Wf : defaultPorts.Wf ∧ swappedPorts.Wf ∧ defaultParams.Wf := by decide
theorem witness_ports_default : State.reset.params.ports = defaultPorts ∧ State.reset.params.addrPulseDigital3 = 71 := by
  decide

theorem witness_DecodeEncodeRoundTrip : (Instr.pulsePeriod (.reserved 5) 0xFFFF 0xFFFFFFFFFFFF).wf = true := by decide
theorem witness_EncodeDecodeRoundTrip :
    decode 0xEFFFFFFFFFFFFFFFFF = .ok (.registerStopPwm (.reserved 15) 0xFFFF 0xFFFFFFFFFFFF) := by decide
theorem witness_DecodeTakesTheFourFields :
    (0xF00000000000000000 : CmdWord).toNat / 2 ^ 68 = 15 ∧ (0xEFFFFFFFFFFFFFFFFF : CmdWord).toNat / 2 ^ 68 ≠ 15 ∧
    (0 : CmdWord).toNat / 2 ^ 68 ≠ 15 := by decide
theorem witness_WordsTravel : (0 < 9 ∧ 8 < 9) ∧ (List.replicate 8 (0 : Byte)).length ≠ 9 ∧ ([] : List Byte).length ≠ 9 := by
  decide
theorem witness_TopByteSelectsTheCommand :
    (presented [0xF00000000000000000]).cmds = 0xF00000000000000000 :: [] ∧
    0xF0 ≤ (0xF00000000000000000 : CmdWord).toNat / 2 ^ 64 ∧
    (0xE10000000000000000 : CmdWord).toNat / 2 ^ 64 ∈ topBytes ∧ (0 : CmdWord).toNat / 2 ^ 64 ∈ topBytes ∧
    (0xEF0000000000000000 : CmdWord).toNat / 2 ^ 64 < 0xF0 ∧ (0xEF0000000000000000 : CmdWord).toNat / 2 ^ 64 ∉ topBytes ∧
    (0x010000000000000000 : CmdWord).toNat / 2 ^ 64 ∉ topBytes := by decide
theorem witness_StepRunsTheDecodedCommand :
    (presented [0x000401000000000000, 1]).cmds = 0x000401000000000000 :: [1] ∧
    decode 0x000401000000000000 = .ok (.setOutput .none 1025 0) := by decide
theorem witness_PlacedWordRunsNext : decodeTableWord 72 0x000401000000000000 = some (.setOutput .none 1025 0) := by decide
theorem witness_KindCodeFifteenIsIllegalKind :
    (presented [0xFFFFFFFFFFFFFFFFFF]).cmds = 0xFFFFFFFFFFFFFFFFFF :: [] ∧
    (0xFFFFFFFFFFFFFFFFFF : CmdWord).toNat / 2 ^ 68 = 15 := by decide
theorem witness_StepAnswersEveryPresentedCommand : (presented [0]).cmds = 0 :: [] ∧ State.reset.cmds = [] := by decide
theorem witness_StepIsTheFourStagePipeline : (presented [0, 1]).cmds = 0 :: [1] := by decide
theorem witness_ShapeRule :
    Shape.u8 ≠ Shape.none ∧ Shape.reserved 15 ≠ Shape.none ∧ Shape.none ≠ Shape.u16 ∧ Shape.u16 ≠ Shape.u8 ∧
    Shape.arr6 ≠ Shape.arr3 ∧ Shape.arr3 ≠ Shape.arr6 := by decide
theorem witness_WritesShiftedMask_legal :
    (1024 : Mask).toNat = 1 * 1024 ∧ (15360 : Mask).toNat = 15 * 1024 ∧ 1 ≤ 15 := by decide
theorem witness_WritesShiftedMask_illegal :
    ∀ m ∈ [(0 : Mask), 1023, 1025, 15361, 16384, 17408, 65535], ¬ ∃ j, 1 ≤ j ∧ j ≤ 15 ∧ m.toNat = j * 1024 := by
  rintro m hm ⟨j, h1, h2, h3⟩
  simp only [List.mem_cons, List.not_mem_nil, or_false] at hm
  rcases hm with rfl | rfl | rfl | rfl | rfl | rfl | rfl <;> simp at h3 <;> omega
theorem witness_PwmValueHasOneBitPerDigitalPort :
    State.reset.params.ports = defaultPorts ∧
    ∃ t, exec (instrOf .startPwm .none 0x2400 0) State.reset = .next t ∧ t.status = some .ok :=
  ⟨rfl, _, rfl, by decide⟩
theorem witness_FollowsMaskTable_in :
    ((1024 : Mask), (73 : Byte)) ∈ [((1024 : Mask), (73 : Byte)), (2048, 74), (4096, 75), (8192, 76)] ∧
    ((128 : Mask), (86 : Byte)) ∈ [((64 : Mask), (86 : Byte)), (128, 86)] ∧
    ((512 : Mask), (85 : Byte)) ∈ [((256 : Mask), (84 : Byte)), (512, 85)] := by decide
theorem witness_FollowsMaskTable_out :
    (∀ r ∈ [((1024 : Mask), (73 : Byte)), (2048, 74), (4096, 75), (8192, 76)], (3072 : Mask) ≠ r.1) ∧
    (∀ r ∈ [((64 : Mask), (86 : Byte)), (128, 86)], (192 : Mask) ≠ r.1) ∧
    (∀ r ∈ [((256 : Mask), (84 : Byte)), (512, 85)], (0 : Mask) ≠ r.1) :=
  ⟨by simp, by simp, by simp⟩
theorem witness_FollowsMaskTable_pulse :
    defaultPorts.bit .digital3 = 8192 ∧ ∀ r ∈ pulsePeriodRows defaultParams, (16384 : Mask) ≠ defaultPorts.bit r.1 := by
  refine ⟨rfl, ?_⟩
  simp [pulsePeriodRows, PortTable.bit, defaultPorts]
theorem witness_FollowsPortTable :
    swappedPorts.Wf ∧ defaultParams.addrPulseDigital3 = 71 ∧ swappedPorts.bit .digital3 = 2048 ∧
    (∀ r ∈ pwmFrequencyRows, (512 : Mask) ≠ swappedPorts.bit r.1) := by decide
theorem witness_MaskAndRegisterOutputsAgree : (0xFFFFFFFF0401 : Lanes).toNat % 65536 = (1025 : Mask).toNat := by decide
theorem witness_MaskAndRegisterPwmAgreeOnLegalMasks :
    ((15360 : Mask).toNat = 15 * 1024 ∧ (0xAA0F : Lanes).toNat % 256 = 15) ∧ (0x100 : Lanes).toNat % 256 = 0 ∧
    16 ≤ (16 : Lanes).toNat % 256 ∧ 16 ≤ (255 : Lanes).toNat % 256 := by decide
theorem witness_MultiSelectFrameTellsKindAndMask :
    Kind.setOutput ∈ [Kind.setOutput, .clearOutput, .toggleOutput] ∧
    ∃ t t', exec (instrOf .setOutput .none 5 0) State.reset = .next t ∧
      exec (instrOf .setOutput .none 5 1) State.reset = .next t' ∧ t.frame = t'.frame :=
  ⟨by decide, _, _, rfl, rfl, rfl⟩
theorem witness_ExactlyOneFrameTellsThePayload :
    State.reset.params.ports.Wf ∧
    ∃ t t', exec (instrOf .colorsRgb (requiredShape .colorsRgb) 256 0x030201) State.reset = .next t ∧
      exec (instrOf .colorsRgb (requiredShape .colorsRgb) 256 0xFF030201) State.reset = .next t' ∧
      t.status = some .ok ∧ t.frame = t'.frame :=
  ⟨by decide, _, _, rfl, rfl, by decide, by decide⟩
theorem witness_LegalMaskCounts :
    legalityClass .toggleOutput = .multiSelect ∧ legalityClass .colorsRgbs = .registerDirect ∧
    State.reset.params.ports = defaultPorts := by decide
theorem witness_PulseDigital3ParameterMovesOneElement :
    State.reset.params.ports.Wf ∧ (Instr.pulsePeriod .u16 8192 1000).kind = .pulsePeriod ∧
    (Instr.pulsePeriod .u16 8192 1000).shape = .u16 ∧
    (Instr.pulsePeriod .u16 8192 1000).mask = State.reset.params.ports.digital3 ∧
    (Instr.pulsePeriod .u16 4096 1000).mask ≠ State.reset.params.ports.digital3 := by decide
theorem witness_WrongShapeIsInvalidPayloadShape :
    (Kind.ledCurrent, Shape.u8) ∈ shapeTable ∧ (Instr.ledCurrent .u16 64 300).kind = .ledCurrent ∧
    (Instr.ledCurrent .u16 64 300).shape ≠ .u8 := by decide
theorem witness_IllegalMaskIsInvalidMaskSelection :
    (Kind.ledCurrent, Shape.u8) ∈ shapeTable ∧ (Instr.ledCurrent .u8 192 0).shape = .u8 ∧
    State.reset.params.ports = defaultPorts ∧ ¬ LegalMask .ledCurrent (192 : Mask).toNat := by
  refine ⟨by decide, by decide, by decide, ?_⟩
  simp [LegalMask]
theorem witness_FirstFaultInStageOrderIsReported :
    Kind.pulsePeriod.code.toNat = (0x700300000000000000 : CmdWord).toNat / 2 ^ 68 ∧
    (requiredShape .pulsePeriod).code.toNat ≠ (0x700300000000000000 : CmdWord).toNat / 2 ^ 64 % 16 ∧
    (requiredShape .pulsePeriod).code.toNat = (0x720300000000000000 : CmdWord).toNat / 2 ^ 64 % 16 ∧
    legal defaultPorts .pulsePeriod (BitVec.ofNat 16 ((0x720300000000000000 : CmdWord).toNat / 2 ^ 48)) = false ∧
    legal defaultPorts .pulsePeriod (BitVec.ofNat 16 ((0x722000000000000000 : CmdWord).toNat / 2 ^ 48)) = true := by decide
theorem witness_FaultingStepEmitsNothing :
    (∃ t, step (presented [0xF00000000000000000]) = .next t ∧ t.status ≠ some .ok) ∧
    (∃ t, step (presented [0]) = .next t ∧ t.status = some .ok) :=
  ⟨⟨_, rfl, by decide⟩, _, rfl, by decide⟩
theorem witness_FaultDoesNotTouchTheNextCommand :
    (presented [0x720300000000000000, 0x610080000000000064]).cmds = 0x720300000000000000 :: 0x610080000000000064 :: [] ∧
    ∃ t, step (presented [0x720300000000000000, 0x610080000000000064]) = .next t ∧ t.status ≠ some .ok :=
  ⟨rfl, _, rfl, by decide⟩
theorem witness_ResultDependsOnCommandAndParametersOnly :
    State.reset.params = (presented [0, 1, 2]).params ∧ State.reset ≠ presented [0, 1, 2] := by decide
theorem witness_UnusedPayloadLanesAreIgnored :
    (0xAA1234 : Lanes).toNat % 2 ^ (8 * (requiredShape .pwmFrequency).byteCount) =
      (0x1234 : Lanes).toNat % 2 ^ (8 * (requiredShape .pwmFrequency).byteCount) ∧
    (0xABCDEF : Lanes).toNat % 2 ^ (8 * (requiredShape .setOutput).byteCount) =
      (0 : Lanes).toNat % 2 ^ (8 * (requiredShape .setOutput).byteCount) := by decide
theorem witness_OnlyRegisterDirectKindsIgnoreTheMask :
    legalityClass .colorsRgb ≠ .registerDirect ∧ State.reset.params.ports.Wf := by decide
theorem witness_ResolverAnswersLegalMasks :
    legal defaultPorts .pulsePeriod 8192 = true ∧ legalityClass .pulsePeriod = .exactlyOne ∧
    (resolve defaultParams .pulsePeriod 8192).isSome = true := by decide
theorem witness_emitted_frames :
    (∃ t, step (presented [0x940000060504030201]) = .next t ∧ t.status = some .ok) ∧
    defaultParams.tagU8 ≠ defaultParams.tagU16 ∧ defaultParams.lenArr6 = 10 ∧ defaultParams.addrColorsRgbs = 46 ∧
    defaultParams.addrPulseDigital3 = 71 :=
  ⟨⟨_, rfl, by decide⟩, by decide⟩
theorem witness_MasksAreOrOfPorts : Port.digital0 ∈ [Port.digital3, .digital0] ∧ swappedPorts.Wf := by decide
theorem witness_NarrowingLosesNothing : legalRange 1024 = true ∧ legalRange 15360 = true := by decide
theorem witness_AssembledCommandsDecodeToWhatIsWritten :
    assemble defaultParams (.command .colorsRgbs .omitted (.list [1, 2, 3, 4, 5, 255])) = some 0x940000FF0504030201 ∧
    assemble defaultParams (.command .startPwm (.numeral 65535) (.numeral 65535)) = some 0x32FFFF00000000FFFF ∧
    assemble defaultParams (.command .ledCurrent (.ports [.led0]) (.numeral 255)) = some 0x6100400000000000FF ∧
    assemble defaultParams (.command .pwmFrequency (.numeral 0) (.numeral 0)) = some 0x520000000000000000 ∧
    assemble defaultParams (.command .colorsRgb (.ports []) (.list [255, 0, 1])) = some 0x8300000000000100FF ∧
    assemble defaultParams (.command .registerStopPwm (.numeral 7) .omitted) = some 0xE00007000000000000 := by decide

/-- The machine with one frame on record and one command presented. -/
def oneFrameOnRecord : State where
  cmds := [0x720300000000000000]
  status := some .ok
  frame := trueThen [2, 5, 86, 255, 1, 100, 0]
  results := [.ok (trueThen [2, 5, 86, 255, 1, 100, 0])]
  ci := 1
  params := defaultParams

theorem witness_EveryStepKeepsTheInvariant :
    oneFrameOnRecord.Inv ∧ ∃ t, step oneFrameOnRecord = .next t ∧ t.status = some .invalidMaskSelection := by
  refine ⟨⟨rfl, ⟨rfl, rfl⟩, ?_⟩, _, rfl, by decide⟩
  intro f hf
  have hf : f = trueThen [2, 5, 86, 255, 1, 100, 0] := by
    simpa [oneFrameOnRecord, State.frameStream, Result.frame?] using hf
  exact ⟨⟨"LED_CURRENT", 86, false, 1⟩, by decide, [100], rfl, hf⟩

end Sys2Proof.Tests
end

section
/-! PROOFS. A mask as the OR of its ports (spec/10_state.md R26): the equations of `maskOfPorts` and what they make of
the named sets of ports. -/

namespace Sys2Proof.Machine

@[simp] theorem maskOfPorts_nil (t : PortTable) : maskOfPorts t [] = 0 := rfl

@[simp] theorem maskOfPorts_cons (t : PortTable) (p : Port) (ps : List Port) :
    maskOfPorts t (p :: ps) = t.bit p ||| maskOfPorts t ps := rfl

theorem maskOfPorts_singleton (t : PortTable) (p : Port) : maskOfPorts t [p] = t.bit p := by simp

theorem maskOfPorts_append (t : PortTable) (ps qs : List Port) :
    maskOfPorts t (ps ++ qs) = maskOfPorts t ps ||| maskOfPorts t qs := by
  induction ps with
  | nil => simp
  | cons p ps ih => rw [List.cons_append, maskOfPorts_cons, maskOfPorts_cons, ih, BitVec.or_assoc]

/-- The mask already holds the bit of every port it was built from: OR is idempotent on the selection split at `p`. -/
theorem bit_or_maskOfPorts_of_mem (t : PortTable) {p : Port} {ps : List Port} (h : p ∈ ps) :
    t.bit p ||| maskOfPorts t ps = maskOfPorts t ps := by
  obtain ⟨before, after, rfl⟩ := List.append_of_mem h
  rw [maskOfPorts_append, maskOfPorts_cons]
  calc t.bit p ||| (maskOfPorts t before ||| (t.bit p ||| maskOfPorts t after))
      = maskOfPorts t before ||| ((t.bit p ||| t.bit p) ||| maskOfPorts t after) := by ac_rfl
    _ = maskOfPorts t before ||| (t.bit p ||| maskOfPorts t after) := by rw [BitVec.or_self]

/-- R25 leaves open which of `Digital1` and `Digital3` is 2048 and which 8192; the OR is the same either way. -/
theorem maskOfPorts_digitalPorts {t : PortTable} (hwf : t.Wf) : maskOfPorts t digitalPorts = digitalAll := by
  obtain ⟨-, -, -, h0, h2, ⟨h1, h3⟩ | ⟨h1, h3⟩⟩ := hwf
  · simp [digitalPorts, digitalAll, PortTable.bit, h0, h1, h2, h3]
  · simp [digitalPorts, digitalAll, PortTable.bit, h0, h1, h2, h3]

theorem maskOfPorts_all_defaultPorts : maskOfPorts defaultPorts Port.all = portsAll := by decide

/-- Settles O43, from the equations of `maskOfPorts` and the values of its two named sets. -/
theorem masksAreOrOfPorts : Obligations.MasksAreOrOfPorts :=
  ⟨fun t => ⟨maskOfPorts_nil t, maskOfPorts_singleton t, maskOfPorts_append t,
    fun p ps hp => (maskOfPorts_cons t p ps).trans (bit_or_maskOfPorts_of_mem t hp),
    fun hwf => ⟨maskOfPorts_digitalPorts hwf, rfl⟩⟩,
   maskOfPorts_all_defaultPorts, rfl⟩

end Sys2Proof.Machine
end

section
/-! PROOFS. The round trip of a well-formed command through its word (spec/30_encoding.md R60 to R63). -/

namespace Sys2Proof

theorem decode_packWord_code (k : Kind) (c : BitVec 4) (m : Mask) (l : Lanes) :
    decode (packWord k.code c m l) = .ok (instrOf k (shapeOfCode c) m l) := by
  simp [decode]

theorem decode_encode_of_wf {i : Instr} (h : i.wf = true) : decode (encode i) = .ok i := by
  rw [encode, decode_packWord_code, shapeOfCode_code h, instrOf_fields]

theorem wf_instrOf (k : Kind) (sh : Shape) (m : Mask) (l : Lanes) : (instrOf k sh m l).wf = sh.wf := by
  rw [Instr.wf, instrOf_shape]

/-- A mask of zero is canonical for every kind, so only the lanes above the shape are left to check (R64, R65). -/
theorem canonical_of_mask_zero {i : Instr} (hm : i.mask = 0) (hl : i.payload.toNat < 2 ^ (8 * i.shape.byteCount)) :
    i.canonical = true := by
  simp [Instr.canonical, hm, hl]

end Sys2Proof
end

section
/-! PROOFS. The assembler form by form (spec/30_encoding.md R79): the mask and the payload of each written form, which
forms have none, and from these the whole command line. -/

namespace Sys2Proof.Machine

open Sys2Proof.Claims

/-! ### The mask -/

@[simp] theorem assembleMask_ports (t : PortTable) (k : Kind) (ps : List Port) :
    assembleMask t k (.ports ps) = some (maskOfPorts t ps) := rfl

@[simp] theorem assembleMask_numeral_eq_some {t : PortTable} {k : Kind} {n : Nat} {m : Mask} :
    assembleMask t k (.numeral n) = some m ↔ m.toNat = n := by
  rw [assembleMask]
  split
  case isTrue h =>
    rw [Option.some.injEq, ← BitVec.toNat_inj, BitVec.toNat_ofNat]
    omega
  case isFalse h =>
    have := m.isLt
    simp only [reduceCtorEq, false_iff]
    omega

@[simp] theorem assembleMask_omitted_eq_some {t : PortTable} {k : Kind} {m : Mask} :
    assembleMask t k .omitted = some m ↔ k.ignoresMask = true ∧ m = 0 := by
  simp [assembleMask, eq_comm (a := m)]

/-- The six kinds that ignore the mask are R65's list. -/
theorem ignoresMask_iff (k : Kind) : k.ignoresMask = true ↔ MaskFormAdmitted k .omitted := by
  cases k <;> simp [MaskFormAdmitted, Kind.ignoresMask, Kind.code]

theorem exists_assembleMask_iff (t : PortTable) (k : Kind) (me : MaskExpr) :
    (∃ m, assembleMask t k me = some m) ↔ MaskFormAdmitted k me := by
  cases me with
  | ports ps => simp [MaskFormAdmitted]
  | numeral n =>
    simp only [assembleMask_numeral_eq_some, MaskFormAdmitted]
    constructor
    · rintro ⟨m, rfl⟩
      have := m.isLt
      omega
    · intro h
      exact ⟨BitVec.ofNatLT n (by omega), rfl⟩
  | omitted => simp [← ignoresMask_iff]

/-! ### The payload -/

/-- Up to six elements stay below the end of the payload field (R60, R64). -/
theorem lanesOfBytes_lt_six_lanes {bs : List Nat} (hlen : bs.length ≤ 6) (hb : ∀ b ∈ bs, b ≤ 255) :
    lanesOfBytes bs < 2 ^ 48 :=
  calc lanesOfBytes bs < 256 ^ bs.length := lanesOfBytes_lt bs hb
    _ ≤ 256 ^ 6 := Nat.pow_le_pow_right (by decide) hlen
    _ = 2 ^ 48 := by decide

/-- A value that fits the six lanes is assembled without loss. -/
theorem some_ofNat_lanes_eq_some {sh sh' : Shape} {v : Nat} {l : Lanes} (hv : v < 2 ^ 48) :
    some (sh', BitVec.ofNat 48 v) = some (sh, l) ↔ sh = sh' ∧ l.toNat = v := by
  rw [Option.some.injEq, Prod.mk.injEq, eq_comm (a := sh'), ← BitVec.toNat_inj, BitVec.toNat_ofNat,
    Nat.mod_eq_of_lt hv, eq_comm (a := v)]

theorem numeralShape_u8_or_u16 (required : Shape) (n : Nat) :
    numeralShape required n = .u8 ∨ numeralShape required n = .u16 := by
  obtain ⟨-, e⟩ | ⟨-, e⟩ | ⟨-, -, e⟩ := numeralShape_cases required n
  · exact .inl e
  · exact .inr e
  · rw [e]
    split
    · exact .inl rfl
    · exact .inr rfl

theorem numeralShape_of_required {required : Shape} (h : required = .u8 ∨ required = .u16) (n : Nat) :
    numeralShape required n = required := by
  obtain rfl | rfl := h <;> rfl

theorem assemblePayload_omitted_eq_some {required sh : Shape} {l : Lanes} :
    assemblePayload required .omitted = some (sh, l) ↔ sh = .none ∧ l.toNat = 0 :=
  some_ofNat_lanes_eq_some (by decide)

theorem assemblePayload_numeral_eq_some {required sh : Shape} {n : Nat} {l : Lanes} :
    assemblePayload required (.numeral n) = some (sh, l) ↔
      (n ≤ 65535 ∧ (required = .u8 → n ≤ 255)) ∧ sh = numeralShape required n ∧ l.toNat = n := by
  rw [assemblePayload, ← numeralShape_fits]
  split
  case isTrue h =>
    have := (numeralShape_fits required n).1 h
    rw [some_ofNat_lanes_eq_some (by omega), and_iff_right h]
  case isFalse h => simp [h]

theorem assemblePayload_list_eq_some {required sh : Shape} {bs : List Nat} {l : Lanes} :
    assemblePayload required (.list bs) = some (sh, l) ↔
      (∀ b ∈ bs, b ≤ 255) ∧ (bs.length = 3 ∧ sh = .arr3 ∨ bs.length = 6 ∧ sh = .arr6) ∧
        l.toNat = lanesOfBytes bs := by
  have all_iff : (bs.all fun b => decide (b ≤ 255)) = true ↔ ∀ b ∈ bs, b ≤ 255 := by simp
  rw [assemblePayload, ← all_iff]
  split
  case isFalse h => simp [h]
  case isTrue h =>
    have hlt (hlen : bs.length ≤ 6) := lanesOfBytes_lt_six_lanes hlen (all_iff.1 h)
    rw [and_iff_right h]
    split
    case h_1 h3 => rw [some_ofNat_lanes_eq_some (hlt (by omega))]; simp [h3]
    case h_2 h6 => rw [some_ofNat_lanes_eq_some (hlt (by omega))]; simp [h6]
    case h_3 h3 h6 =>
      have h3 : bs.length ≠ 3 := h3
      have h6 : bs.length ≠ 6 := h6
      simp [h3, h6]

/-- The shape assembled is well formed, and the lanes above its byte count are zero (R64). -/
theorem wf_and_lanes_of_assemblePayload {required sh : Shape} {pe : PayloadExpr} {l : Lanes}
    (h : assemblePayload required pe = some (sh, l)) : sh.wf = true ∧ l.toNat < 2 ^ (8 * sh.byteCount) := by
  cases pe with
  | omitted =>
    obtain ⟨rfl, hl⟩ := assemblePayload_omitted_eq_some.1 h
    simp [Shape.wf, hl]
  | numeral n =>
    obtain ⟨hn, rfl, hl⟩ := assemblePayload_numeral_eq_some.1 h
    refine ⟨?_, hl ▸ (numeralShape_fits required n).2 hn⟩
    obtain e | e := numeralShape_u8_or_u16 required n
    · rw [e]; rfl
    · rw [e]; rfl
  | list bs =>
    obtain ⟨hb, hsh, hl⟩ := assemblePayload_list_eq_some.1 h
    have hlt := hl ▸ lanesOfBytes_lt bs hb
    obtain ⟨hlen, rfl⟩ | ⟨hlen, rfl⟩ := hsh
    · rw [hlen] at hlt; exact ⟨rfl, hlt⟩
    · rw [hlen] at hlt; exact ⟨rfl, hlt⟩

/-- R91's rows with shape `U8` are the kinds that require it. -/
theorem u8_mem_shapeTable_iff (k : Kind) : (k, Shape.u8) ∈ shapeTable ↔ requiredShape k = .u8 := by
  cases k <;> decide

theorem exists_assemblePayload_iff (k : Kind) (pe : PayloadExpr) :
    (∃ sh l, assemblePayload (requiredShape k) pe = some (sh, l)) ↔ PayloadFormAdmitted k pe := by
  cases pe with
  | omitted => exact iff_of_true ⟨_, _, rfl⟩ trivial
  | numeral n =>
    rw [PayloadFormAdmitted, u8_mem_shapeTable_iff]
    simp only [assemblePayload_numeral_eq_some]
    constructor
    · rintro ⟨sh, l, hn, -, -⟩
      exact hn
    · intro hn
      exact ⟨_, BitVec.ofNatLT n (by omega), hn, rfl, rfl⟩
  | list bs =>
    simp only [assemblePayload_list_eq_some, PayloadFormAdmitted]
    constructor
    · rintro ⟨sh, l, hb, hsh, -⟩
      exact ⟨hsh.imp And.left And.left, hb⟩
    · rintro ⟨hlen, hb⟩
      have hlt : lanesOfBytes bs < 2 ^ 48 := lanesOfBytes_lt_six_lanes (by omega) hb
      obtain h3 | h6 := hlen
      · exact ⟨.arr3, BitVec.ofNatLT _ hlt, hb, .inl ⟨h3, rfl⟩, rfl⟩
      · exact ⟨.arr6, BitVec.ofNatLT _ hlt, hb, .inr ⟨h6, rfl⟩, rfl⟩

/-! ### The command line -/

theorem exists_assemble_command_iff (p : Params) (k : Kind) (me : MaskExpr) (pe : PayloadExpr) :
    (∃ w, assemble p (.command k me pe) = some w) ↔
      (∃ m, assembleMask p.ports k me = some m) ∧ ∃ sh l, assemblePayload (requiredShape k) pe = some (sh, l) := by
  constructor
  · rintro ⟨w, h⟩
    obtain ⟨m, sh, l, hm, hp, -⟩ := assemble_command h
    exact ⟨⟨m, hm⟩, sh, l, hp⟩
  · rintro ⟨⟨m, hm⟩, sh, l, hp⟩
    exact ⟨encode (instrOf k sh m l), by rw [assemble, hm, hp]⟩

/-- Settles O49, from the domains of the mask forms and of the payload forms. -/
theorem assemblerRefusesExactlyIllFormedLines : Obligations.AssemblerRefusesExactlyIllFormedLines :=
  ⟨fun p k me pe => (exists_assemble_command_iff p k me pe).trans
    (and_congr (exists_assembleMask_iff p.ports k me) (exists_assemblePayload_iff k pe)),
   fun _ _ => rfl⟩

/-- Settles O45: the word of a line decodes to the command the line was assembled from, whose fields the inversion
lemmas of the mask and the payload forms give. -/
theorem assembledCommandsDecodeToWhatIsWritten : Obligations.AssembledCommandsDecodeToWhatIsWritten := by
  intro p k me pe w h
  obtain ⟨m, sh, l, hm, hp, rfl⟩ := assemble_command h
  obtain ⟨hwf, hl⟩ := wf_and_lanes_of_assemblePayload hp
  refine ⟨instrOf k sh m l, decode_encode_of_wf (by rw [wf_instrOf, hwf]), ?_⟩
  simp only [instrOf_kind, instrOf_shape, instrOf_mask, instrOf_payload, true_and]
  refine ⟨hl, ?maskOmitted, ?maskPorts, ?maskNumeral, ?payloadOmitted, ?payloadList, ?payloadNumeral⟩
  case maskOmitted =>
    rintro rfl
    obtain ⟨-, hm0⟩ := assembleMask_omitted_eq_some.1 hm
    exact ⟨hm0, canonical_of_mask_zero (by rw [instrOf_mask, hm0]) (by rwa [instrOf_payload, instrOf_shape])⟩
  case maskPorts =>
    rintro ps rfl
    exact (Option.some.inj hm).symm
  case maskNumeral =>
    rintro n rfl
    exact assembleMask_numeral_eq_some.1 hm
  case payloadOmitted =>
    rintro rfl
    exact (assemblePayload_omitted_eq_some.1 hp).1
  case payloadList =>
    rintro bs rfl
    obtain ⟨hb, hsh, hval⟩ := assemblePayload_list_eq_some.1 hp
    exact ⟨hsh, fun j b hj => hval ▸ lanesOfBytes_lane bs hb j b hj⟩
  case payloadNumeral =>
    rintro n rfl
    obtain ⟨-, hsh, hval⟩ := assemblePayload_numeral_eq_some.1 hp
    exact ⟨hval, hsh ▸ numeralShape_u8_or_u16 _ n, fun hreq => hsh.trans (numeralShape_of_required hreq n)⟩

end Sys2Proof.Machine
end

section
/-! PROOFS. The meaning of every kind is the pipeline over the tables by kind (spec/40_pipeline.md R90 to R97), class by
class, and with it the step; from this, all or nothing (R95). -/

namespace Sys2Proof.Machine

/-! ### What a result does to the state -/

/-- The state with a command's result on its ports and on record (R28, R207). -/
def State.takeResult (s : State) : Result → State
  | .ok f => s.emit f
  | .fault x => s.takeFault x

@[simp] theorem takeResult_ok (s : State) (f : Frame) : s.takeResult (.ok f) = s.emit f := rfl
@[simp] theorem takeResult_fault (s : State) (x : CommandFault) : s.takeResult (.fault x) = s.takeFault x := rfl

@[simp] theorem commandFault_status_ne_ok (x : CommandFault) : x.status ≠ .ok := by cases x <;> nofun

@[simp] theorem takeFault_requests (s : State) (x : CommandFault) : (s.takeFault x).requests = s.requests := by
  simp [State.requests]

@[simp] theorem takeCommand_requests (s : State) (r : List CmdWord) : (s.takeCommand r).requests = s.requests := rfl

/-! ### Stages 2 and 3: the address of a legal mask -/

/-- The address stages 2 and 3 find: the resolver's, where the mask is legal (R93, R96). -/
def legalAddress (p : Params) (k : Kind) (m : Mask) : Option Byte :=
  if legal p.ports k m then resolve p k m else none

/-- The rows of the mask-indexed table of a kind that has an address (R96). -/
def addressRows (p : Params) (k : Kind) : List (Port × Byte) :=
  Port.all.filterMap fun q => (portAddress p k q).map (q, ·)

/-- The table look-up walks the rows as the resolver walks the ports that have an address. -/
theorem lookupPort_filterMap (t : PortTable) (f : Port → Option Byte) (m : Mask) (ps : List Port) :
    lookupPort t (ps.filterMap fun q => (f q).map (q, ·)) m =
      (ps.find? fun q => m == t.bit q && (f q).isSome).bind f := by
  induction ps with
  | nil => rfl
  | cons q ps ih =>
    cases hf : f q with
    | none => simpa [hf] using ih
    | some addr =>
      by_cases hm : m = t.bit q
      · simp [hf, hm, lookupPort]
      · simpa [hf, hm, lookupPort] using ih

/-- The ports with a row are the ports the kind allows (R93, R96). -/
theorem addressRows_ports (p : Params) (k : Kind) : (addressRows p k).map (·.1) = allowedPorts k := by
  cases k <;> rfl

/-- The kinds whose address the mask selects are the exactly-one kinds (R92, R96). -/
theorem fixedAddress_eq_none {p : Params} {k : Kind} : fixedAddress p k = none ↔ legalityClass k = .exactlyOne := by
  cases k <;> simp [fixedAddress, legalityClass]

theorem resolve_exactlyOne {k : Kind} (h : legalityClass k = .exactlyOne) (p : Params) (m : Mask) :
    resolve p k m = lookupPort p.ports (addressRows p k) m := by
  rw [resolve, fixedAddress_eq_none.2 h, addressRows, lookupPort_filterMap]

/-- An exactly-one kind refuses the masks its address table has no row for, and no others. -/
theorem legal_exactlyOne {k : Kind} (h : legalityClass k = .exactlyOne) (p : Params) (m : Mask) :
    legal p.ports k m = false ↔ lookupPort p.ports (addressRows p k) m = none := by
  rw [lookupPort_none, ← List.forall_mem_map (f := Prod.fst) (P := fun q => m ≠ p.ports.bit q), addressRows_ports]
  simp [legal, h]

/-- For the exactly-one kinds stages 2 and 3 are one look-up, as R130 has it. -/
theorem legalAddress_exactlyOne {k : Kind} (h : legalityClass k = .exactlyOne) (p : Params) (m : Mask) :
    legalAddress p k m = lookupPort p.ports (addressRows p k) m := by
  rw [legalAddress, resolve_exactlyOne h]
  cases hl : legal p.ports k m with
  | true => rfl
  | false => exact ((legal_exactlyOne h p m).1 hl).symm

/-- The other kinds have their own address for every legal mask. -/
theorem legalAddress_of_fixedAddress {p : Params} {k : Kind} {addr : Byte} (h : fixedAddress p k = some addr)
    (m : Mask) : legalAddress p k m = if legal p.ports k m then some addr else none := by
  simp [legalAddress, resolve, h]

/-! ### The stages, an equation for each way they end -/

section
variable {p : Params} {k : Kind} {sh : Shape} {m : Mask} {l : Lanes} {addr : Byte} {f : Frame}

theorem runStages_mismatch (h : sh ≠ requiredShape k) :
    runStages p k sh m l = .fault (.invalidPayloadShape k sh) := if_pos h

theorem runStages_of_no_address (h : legalAddress p k m = none) :
    runStages p k (requiredShape k) m l = .fault (.invalidMaskSelection k m) := by
  rw [legalAddress] at h
  simp [runStages, h]

theorem runStages_of_address (h : legalAddress p k m = some addr) :
    runStages p k (requiredShape k) m l = .ok (serialize p k addr m l) := by
  rw [legalAddress] at h
  simp [runStages, h]

/-- The stages emit only what the serializer makes of the address found. -/
theorem runStages_eq_ok (h : runStages p k sh m l = .ok f) :
    ∃ addr, legalAddress p k m = some addr ∧ f = serialize p k addr m l := by
  by_cases hsh : sh = requiredShape k
  · subst hsh
    cases ha : legalAddress p k m with
    | none => rw [runStages_of_no_address ha] at h; cases h
    | some addr =>
      rw [runStages_of_address ha] at h
      exact ⟨addr, rfl, (Result.ok.inj h).symm⟩
  · rw [runStages_mismatch hsh] at h; cases h

end

/-- Whatever the kind, the serializer lays its frame around the address it is given (R70, R97). -/
theorem serialize_eq_layFrame (p : Params) (k : Kind) (addr : Byte) (m : Mask) (l : Lanes) :
    ∃ len tag bs, serialize p k addr m l = layFrame len addr tag bs := by
  cases k <;> exact ⟨_, _, _, rfl⟩

theorem pipeline_ok_ne_nil {p : Params} {w : CmdWord} {f : Frame} (h : pipeline p w = .ok f) : f ≠ [] := by
  unfold pipeline at h
  split at h
  case h_1 => cases h
  case h_2 k hk =>
    obtain ⟨addr, -, rfl⟩ := runStages_eq_ok h
    obtain ⟨len, tag, bs, e⟩ := serialize_eq_layFrame p k addr (maskField w) (payloadField w)
    rw [e]
    nofun

/-! ### The meanings are the stages -/

section
variable {k : Kind} {sh : Shape} {m : Mask} {l : Lanes} {s : State}

/-- Stage 1, in front of a meaning that does what the stages do for the required shape. -/
theorem construct_eq_runStages {next : Answer}
    (h : next = .next (s.takeResult (runStages s.params k (requiredShape k) m l))) :
    construct k (requiredShape k) sh s next = .next (s.takeResult (runStages s.params k sh m l)) := by
  obtain ⟨rfl, e⟩ | ⟨hsh, e⟩ := construct_cases k (requiredShape k) sh s next
  · rw [e, h]
  · rw [e, runStages_mismatch hsh, takeResult_fault]

/-- Stages 2 to 4 of a kind with an address of its own. -/
theorem validate_eq_runStages {addr : Byte} (h : fixedAddress s.params k = some addr) :
    validate k m (legal s.params.ports k m) s (.next (s.emit (serialize s.params k addr m l))) =
      .next (s.takeResult (runStages s.params k (requiredShape k) m l)) := by
  have haddr := legalAddress_of_fixedAddress h m
  cases hl : legal s.params.ports k m with
  | true => rw [validate_true, runStages_of_address (by simpa [hl] using haddr), takeResult_ok]
  | false => rw [validate_false, runStages_of_no_address (by simpa [hl] using haddr), takeResult_fault]

/-- Stages 2 to 4 of an exactly-one kind: the look-up both checks the mask and finds its address. -/
theorem resolveMask_eq_runStages (h : legalityClass k = .exactlyOne) :
    resolveMask k (addressRows s.params k) m s (fun addr => .next (s.emit (serialize s.params k addr m l))) =
      .next (s.takeResult (runStages s.params k (requiredShape k) m l)) := by
  have haddr := legalAddress_exactlyOne h s.params m
  obtain ⟨r, -, -, hr, e⟩ | ⟨hnone, e⟩ := resolveMask_cases k (addressRows s.params k) m s
    fun addr => .next (s.emit (serialize s.params k addr m l))
  · rw [e, runStages_of_address (haddr.trans hr), takeResult_ok]
  · rw [e, runStages_of_no_address (haddr.trans (lookupPort_none.2 hnone)), takeResult_fault]

/-- The meanings of files 41, 42 and 44 by the tables: a test of the mask, which the multi-select and register-direct
kinds always pass, and the kind's own address. -/
theorem exec_fixedAddress {addr : Byte} (h : fixedAddress s.params k = some addr) :
    exec (instrOf k sh m l) s = construct k (requiredShape k) sh s
      (validate k m (legal s.params.ports k m) s (.next (s.emit (serialize s.params k addr m l)))) := by
  cases k with
  | pwmFrequency | ledCurrent | pulsePeriod | colorsRgb => cases h
  | _ => cases h; rfl

/-- The meanings of file 43 by the tables. -/
theorem exec_exactlyOne (h : legalityClass k = .exactlyOne) :
    exec (instrOf k sh m l) s = construct k (requiredShape k) sh s
      (resolveMask k (addressRows s.params k) m s fun addr => .next (s.emit (serialize s.params k addr m l))) := by
  cases k with
  | pwmFrequency | ledCurrent | pulsePeriod | colorsRgb => rfl
  | _ => cases h

end

theorem exec_instrOf (k : Kind) (sh : Shape) (m : Mask) (l : Lanes) (s : State) :
    exec (instrOf k sh m l) s = .next (s.takeResult (runStages s.params k sh m l)) := by
  cases ha : fixedAddress s.params k with
  | some addr => rw [exec_fixedAddress ha, construct_eq_runStages (validate_eq_runStages ha)]
  | none =>
    have hc := fixedAddress_eq_none.1 ha
    rw [exec_exactlyOne hc, construct_eq_runStages (resolveMask_eq_runStages hc)]

/-- A command always completes, with the result the stages give it. -/
theorem exec_eq_resultOf (i : Instr) (s : State) : exec i s = .next (s.takeResult (resultOf s.params i)) := by
  have h := exec_instrOf i.kind i.shape i.mask i.payload s
  rwa [instrOf_fields] at h

/-! ### The step -/

theorem step_eq_pipeline {s : State} {w : CmdWord} {rest : List CmdWord} (h : s.cmds = w :: rest) :
    step s = .next ((s.takeCommand rest).takeResult (pipeline s.params w)) := by
  rw [step, h]
  cases hk : kindOfCode (kindField w) with
  | none => simp [decode, pipeline, hk]
  | some k => simp [decode, pipeline, hk, exec_instrOf]

/-- A step that answers a next state took a word and its pipeline result, and did nothing else. -/
theorem exists_pipeline_of_step {s t : State} (h : step s = .next t) :
    ∃ w rest, s.cmds = w :: rest ∧ t = (s.takeCommand rest).takeResult (pipeline s.params w) := by
  obtain ⟨w, rest, hc, -⟩ := step_cases h
  rw [step_eq_pipeline hc] at h
  exact ⟨w, rest, hc, (Host.Outcome.next.inj h).symm⟩

/-- Settles O11: `takeResult` updates what the statement writes out field by field. -/
theorem stepIsTheFourStagePipeline : Obligations.StepIsTheFourStagePipeline := by
  intro s w rest hc
  rw [step_eq_pipeline hc]
  cases pipeline s.params w with
  | ok f => rfl
  | fault x => rfl

/-- Settles O33, by the two ways the word's pipeline result can end. -/
theorem faultingStepEmitsNothing : Obligations.FaultingStepEmitsNothing := by
  intro s t h
  obtain ⟨w, rest, hc, rfl⟩ := exists_pipeline_of_step h
  cases hr : pipeline s.params w with
  | ok f => simp [pipeline_ok_ne_nil hr]
  | fault x => simp [hc]

end Sys2Proof.Machine
end

section
/-! PROOFS. The encoding and the fault of a wrong shape, for every kind (spec/30_encoding.md R60, spec/40_pipeline.md
R91), and the multi-select kinds (spec/41_multi_select.md R110 to R113). -/

namespace Sys2Proof.Machine

open Sys2Proof.Claims

/-! ### For every kind -/

/-- The top byte of a command's word is its kind's code, then its shape's (R60). -/
theorem encode_topByte (i : Instr) : (encode i).toNat / 2 ^ 64 = 16 * i.kind.code.toNat + i.shape.code.toNat := by
  rw [encode, packWord_toNat]
  have := i.mask.isLt
  have := i.payload.isLt
  omega

theorem exec_of_wrong_shape {k : Kind} {sh : Shape} (h : sh ≠ requiredShape k) (m : Mask) (l : Lanes) (s : State) :
    exec (instrOf k sh m l) s = .next (s.afterFault .invalidPayloadShape (.invalidPayloadShape k sh)) := by
  rw [exec_instrOf, runStages_mismatch h, takeResult_fault, takeFault_eq_afterFault, CommandFault.status]

theorem exec_of_legalAddress {s : State} {k : Kind} {m : Mask} {addr : Byte}
    (h : legalAddress s.params k m = some addr) (l : Lanes) :
    exec (instrOf k (requiredShape k) m l) s = .next (s.afterFrame (serialize s.params k addr m l)) := by
  rw [exec_instrOf, runStages_of_address h, takeResult_ok, emit_eq_afterFrame]

theorem shapeRule_instrOf (k : Kind) :
    ShapeRule (instrOf k) k (requiredShape k) (16 * k.code.toNat + (requiredShape k).code.toNat) := by
  constructor
  · intro m l
    rw [encode_topByte, instrOf_kind, instrOf_shape]
  · intro s sh m l h
    exact exec_of_wrong_shape h m l s

/-- The serializer's 16-bit frame is the one R73 writes out: low byte, then high byte. -/
theorem frame16_eq_frameOf16 (p : Params) (addr : Byte) (v : BitVec 16) :
    frame16 p addr v = frameOf16 p addr v.toNat := by
  have hlo : lo8 v = BitVec.ofNat 8 (v.toNat % 256) := BitVec.eq_of_toNat_eq (by simp)
  have hhi : hi8 v = BitVec.ofNat 8 (v.toNat / 256) := BitVec.eq_of_toNat_eq (by
    have := v.isLt
    rw [hi8_toNat, BitVec.toNat_ofNat]
    omega)
  rw [frame16, hlo, hhi]
  rfl

/-! ### The multi-select kinds -/

section
variable {k : Kind} (hk : legalityClass k = .multiSelect)
include hk

theorem requiredShape_multiSelect : requiredShape k = .none := by
  cases k with
  | setOutput | clearOutput | toggleOutput => rfl
  | _ => cases hk

theorem legal_multiSelect (t : PortTable) (m : Mask) : legal t k m = true := by simp [legal, hk]

theorem serialize_multiSelect (p : Params) (addr : Byte) (m : Mask) (l : Lanes) :
    serialize p k addr m l = frame16 p addr m := by
  cases k with
  | setOutput | clearOutput | toggleOutput => rfl
  | _ => cases hk

/-- A multi-select kind refuses no mask and writes it whole to its own address (R110). -/
theorem writesWholeMask_multiSelect {addr : Byte} (haddr : ∀ p, fixedAddress p k = some addr) :
    WritesWholeMask (instrOf k) addr := by
  intro s m l
  have h : legalAddress s.params k m = some addr := by
    rw [legalAddress_of_fixedAddress (haddr s.params), legal_multiSelect hk, if_pos rfl]
  rw [← requiredShape_multiSelect hk, exec_of_legalAddress h, serialize_multiSelect hk, frame16_eq_frameOf16]

end

/-- Settles O13: each of the three is `instrOf` of its kind, whose class is multi-select. -/
theorem setClearToggleWriteTheWholeMask : Obligations.SetClearToggleWriteTheWholeMask :=
  ⟨⟨shapeRule_instrOf .setOutput, writesWholeMask_multiSelect (k := .setOutput) rfl fun _ => rfl⟩,
   ⟨shapeRule_instrOf .clearOutput, writesWholeMask_multiSelect (k := .clearOutput) rfl fun _ => rfl⟩,
   ⟨shapeRule_instrOf .toggleOutput, writesWholeMask_multiSelect (k := .toggleOutput) rfl fun _ => rfl⟩⟩

end Sys2Proof.Machine
end

section
/-! PROOFS. The range-restricted kinds (spec/42_range_restricted.md R120 to R122). -/

namespace Sys2Proof.Machine

open Sys2Proof.Claims

/-! ### The subset test -/

/-- What a mask selects besides `Digital0` to `Digital3`, the bits 10 to 13: the bits above them and those below. -/
theorem and_not_digitalAll_toNat (m : Mask) :
    (m &&& ~~~digitalAll).toNat = m.toNat / 16384 * 16384 + m.toNat % 1024 := by
  have hm := m.isLt
  have hand : (m &&& ~~~digitalAll).toNat = m.toNat &&& 0xC3FF := BitVec.toNat_and ..
  have hlow : (m.toNat &&& 0xC3FF) % 2 ^ 10 = m.toNat % 2 ^ 10 := by
    rw [Nat.and_mod_two_pow, show 0xC3FF % 2 ^ 10 = 2 ^ 10 - 1 from rfl, Nat.and_two_pow_sub_one_eq_mod, Nat.mod_mod]
  have hmid : (m.toNat &&& 0xC3FF) / 2 ^ 10 % 2 ^ 4 = 0 := by
    rw [Nat.and_div_two_pow, Nat.and_mod_two_pow, show 0xC3FF / 2 ^ 10 % 2 ^ 4 = 0 from rfl, Nat.and_zero]
  have hhigh : (m.toNat &&& 0xC3FF) / 2 ^ 14 = m.toNat / 2 ^ 14 % 2 ^ 2 := by
    rw [Nat.and_div_two_pow, show 0xC3FF / 2 ^ 14 = 2 ^ 2 - 1 from rfl, Nat.and_two_pow_sub_one_eq_mod]
  omega

/-- The subset test of R120 takes exactly the 15 masks `j * 1024`. -/
theorem legalRange_iff (m : Mask) : legalRange m = true ↔ ∃ j, 1 ≤ j ∧ j ≤ 15 ∧ m.toNat = j * 1024 := by
  have htest : legalRange m = true ↔ m.toNat ≠ 0 ∧ m.toNat / 16384 * 16384 + m.toNat % 1024 = 0 := by
    rw [← and_not_digitalAll_toNat]
    simp [legalRange, ← BitVec.toNat_inj]
  rw [htest]
  constructor
  · intro h
    exact ⟨m.toNat / 1024, by omega⟩
  · rintro ⟨j, hj⟩
    omega

/-! ### The kinds -/

theorem exec_of_no_address {s : State} {k : Kind} {m : Mask} (h : legalAddress s.params k m = none) (l : Lanes) :
    exec (instrOf k (requiredShape k) m l) s =
      .next (s.afterFault .invalidMaskSelection (.invalidMaskSelection k m)) := by
  rw [exec_instrOf, runStages_of_no_address h, takeResult_fault, takeFault_eq_afterFault, CommandFault.status]

/-- The serializer's 8-bit frame is the one R72 writes out. -/
theorem frame8_eq_frameOf8 (p : Params) (addr v : Byte) : frame8 p addr v = frameOf8 p addr v.toNat := by
  rw [frameOf8, BitVec.ofNat_toNat, BitVec.setWidth_eq]
  rfl

section
variable {k : Kind} (hk : legalityClass k = .rangeRestricted)
include hk

theorem requiredShape_rangeRestricted : requiredShape k = .none := by
  cases k with
  | startPwm | stopPwm => rfl
  | _ => cases hk

theorem serialize_rangeRestricted (p : Params) (addr : Byte) (m : Mask) (l : Lanes) :
    serialize p k addr m l = frame8 p addr (pwmBits m) := by
  cases k with
  | startPwm | stopPwm => rfl
  | _ => cases hk

theorem message_rangeRestricted (m : Mask) :
    (CommandFault.invalidMaskSelection k m).message? = some "only Digital0..Digital3 may be selected" := by
  cases k with
  | startPwm | stopPwm => rfl
  | _ => cases hk

theorem legalAddress_rangeRestricted {p : Params} {addr : Byte} (haddr : fixedAddress p k = some addr) (m : Mask) :
    legalAddress p k m = if legalRange m then some addr else none := by
  simp [legalAddress_of_fixedAddress haddr, legal, hk]

/-- A range-restricted kind takes the masks of the subset test, and writes bits 10 to 13 to its own address (R120). -/
theorem writesShiftedMask_rangeRestricted {addr : Byte} (haddr : ∀ p, fixedAddress p k = some addr) :
    WritesShiftedMask (instrOf k) k addr := by
  intro s m l
  have h := legalAddress_rangeRestricted hk (haddr s.params) m
  rw [← requiredShape_rangeRestricted hk]
  refine ⟨fun j hj1 hj15 hm => ?_, fun hout => ?_, message_rangeRestricted hk m⟩
  · have hlegal := (legalRange_iff m).2 ⟨j, hj1, hj15, hm⟩
    have hvalue : (pwmBits m).toNat = j := by rw [pwmBits_toNat, hm, Nat.mul_div_cancel j (by decide)]
    rw [if_pos hlegal] at h
    rw [exec_of_legalAddress h, serialize_rangeRestricted hk, frame8_eq_frameOf8, hvalue]
  · rw [if_neg (mt (legalRange_iff m).1 hout)] at h
    exact exec_of_no_address h l

end

/-- Settles O14: each of the two is `instrOf` of its kind, whose class is range-restricted. -/
theorem startStopPwmWriteTheShiftedMask : Obligations.StartStopPwmWriteTheShiftedMask :=
  ⟨⟨shapeRule_instrOf .startPwm, writesShiftedMask_rangeRestricted (k := .startPwm) rfl fun _ => rfl⟩,
   ⟨shapeRule_instrOf .stopPwm, writesShiftedMask_rangeRestricted (k := .stopPwm) rfl fun _ => rfl⟩⟩

end Sys2Proof.Machine
end

section
/-! PROOFS. The exactly-one-of-N kinds (spec/43_exactly_one.md R130 to R134): where the ports keep apart, the whole mask
selects at most one row of the kind's address table, and the payload goes to that row's register. -/

namespace Sys2Proof.Machine

open Sys2Proof.Claims

/-! ### The ports keep apart -/

theorem bit_injective_of_wf {t : PortTable} (h : t.Wf) : Function.Injective t.bit := by
  obtain ⟨-, apart, -⟩ := h
  have mem_all : ∀ q : Port, q ∈ Port.all := fun q => by cases q <;> decide
  exact fun p q => apart p (mem_all p) q (mem_all q)

theorem defaultPorts_bit_injective : Function.Injective defaultPorts.bit := bit_injective_of_wf (by decide)

theorem allowedPorts_nodup (k : Kind) : (allowedPorts k).Nodup := by cases k <;> decide

/-! ### The payload in the frame, by the shape the kind requires -/

theorem payloadU8_eq_ofNat (l : Lanes) : payloadU8 l = BitVec.ofNat 8 l.toNat := BitVec.eq_of_toNat_eq (by simp)

theorem lane_eq_ofNat (l : Lanes) (i : Nat) : lane l i = BitVec.ofNat 8 (l.toNat / 2 ^ (8 * i)) :=
  BitVec.eq_of_toNat_eq (by rw [lane_toNat, BitVec.toNat_ofNat])

section
variable {k : Kind}

theorem serialize_of_u8 (h : requiredShape k = .u8) (p : Params) (addr : Byte) (m : Mask) (l : Lanes) :
    serialize p k addr m l = frameOf8 p addr l.toNat := by
  have hpayload : serialize p k addr m l = frame8 p addr (payloadU8 l) := by
    cases k with
    | ledCurrent | registerStartPwm | registerStopPwm => rfl
    | _ => cases h
  rw [hpayload, payloadU8_eq_ofNat]
  rfl

theorem serialize_of_u16 (h : requiredShape k = .u16) (p : Params) (addr : Byte) (m : Mask) (l : Lanes) :
    serialize p k addr m l = frameOf16 p addr (l.toNat % 65536) := by
  have hpayload : serialize p k addr m l = frame16 p addr (payloadU16 l) := by
    cases k with
    | pwmFrequency | pulsePeriod | registerSetOutputs | registerClearOutputs | registerToggleOutputs => rfl
    | _ => cases h
  rw [hpayload, frame16_eq_frameOf16, payloadU16_toNat]

/-- The three bytes stand in index order (R45). -/
theorem serialize_of_arr3 (h : requiredShape k = .arr3) (p : Params) (addr : Byte) (m : Mask) (l : Lanes) :
    serialize p k addr m l = frameOf3 p addr l.toNat := by
  have hpayload : serialize p k addr m l = frameArr3 p addr (lane l 0) (lane l 1) (lane l 2) := by
    cases k with
    | colorsRgb => rfl
    | _ => cases h
  rw [hpayload, lane_eq_ofNat, lane_eq_ofNat, lane_eq_ofNat, Nat.mul_zero, Nat.pow_zero, Nat.div_one]
  rfl

end

/-! ### The kinds, by their address table -/

section
variable {k : Kind} (hk : legalityClass k = .exactlyOne)
include hk

/-- The mask of a row's port selects that row, and no other row before it. -/
theorem legalAddress_of_row {p : Params} (hinj : Function.Injective p.ports.bit) {r : Port × Byte}
    (hr : r ∈ addressRows p k) : legalAddress p k (p.ports.bit r.1) = some r.2 := by
  have hnodup : ((addressRows p k).map (·.1)).Nodup := by
    rw [addressRows_ports]
    exact allowedPorts_nodup k
  rw [legalAddress_exactlyOne hk]
  exact lookupPort_of_row (fun _ _ e => hinj e) hnodup hr

theorem legalAddress_of_no_row {p : Params} {m : Mask} (h : ∀ r ∈ addressRows p k, m ≠ p.ports.bit r.1) :
    legalAddress p k m = none := by
  rw [legalAddress_exactlyOne hk, lookupPort_none.2 h]

section
variable {frameOf : Params → Byte → Lanes → Frame}
  (hframe : ∀ p addr m l, serialize p k addr m l = frameOf p addr l)
include hframe

/-- R130 over the kind's own address table. -/
theorem exec_exactlyOne_follows_addressRows {s : State} (hinj : Function.Injective s.params.ports.bit) (m : Mask)
    (l : Lanes) :
    (∀ r ∈ addressRows s.params k, m = s.params.ports.bit r.1 →
      exec (instrOf k (requiredShape k) m l) s = .next (s.afterFrame (frameOf s.params r.2 l))) ∧
    ((∀ r ∈ addressRows s.params k, m ≠ s.params.ports.bit r.1) →
      exec (instrOf k (requiredShape k) m l) s =
        .next (s.afterFault .invalidMaskSelection (.invalidMaskSelection k m))) := by
  constructor
  · rintro r hr rfl
    rw [exec_of_legalAddress (legalAddress_of_row hk hinj hr), hframe]
  · intro hout
    exact exec_of_no_address (legalAddress_of_no_row hk hout) l

/-- Rows by port name that are the kind's address table, under the one parameter value the statement supposes. -/
theorem followsPortTable_exactlyOne {rows : List (Port × Byte)}
    (hrows : ∀ p : Params, p.addrPulseDigital3 = 71 → addressRows p k = rows) :
    FollowsPortTable (instrOf k) k (requiredShape k) rows frameOf := by
  intro s m l hwf h71
  rw [← hrows s.params h71]
  exact exec_exactlyOne_follows_addressRows hk hframe (bit_injective_of_wf hwf) m l

/-- Rows by mask that are the kind's address table read through the default port table. -/
theorem followsMaskTable_exactlyOne {rows : Params → List (Mask × Byte)}
    (hrows : ∀ p, rows p = (addressRows p k).map fun r => (defaultPorts.bit r.1, r.2)) :
    FollowsMaskTable (instrOf k) k (requiredShape k) rows frameOf := by
  intro s m l hports
  have hinj : Function.Injective s.params.ports.bit := hports ▸ defaultPorts_bit_injective
  rw [hrows, List.forall_mem_map, List.forall_mem_map, ← hports]
  exact exec_exactlyOne_follows_addressRows hk hframe hinj m l

end

end

/-! ### The statements -/

theorem addressRows_pulsePeriod (p : Params) : addressRows p .pulsePeriod = pulsePeriodRows p := rfl

/-- Settles O16: R131's masks are the rows of the address table under the default ports. -/
theorem pwmFrequencyFollowsItsTable : Obligations.PwmFrequencyFollowsItsTable :=
  ⟨shapeRule_instrOf .pwmFrequency,
   followsMaskTable_exactlyOne (k := .pwmFrequency) rfl (serialize_of_u16 rfl) fun _ => rfl⟩

/-- Settles O17: R132's masks are the rows of the address table under the default ports, the last of them with
`ADDR_PULSE_DIGITAL3` as it stands. -/
theorem pulsePeriodFollowsItsTable : Obligations.PulsePeriodFollowsItsTable :=
  ⟨⟨shapeRule_instrOf .pulsePeriod,
    followsMaskTable_exactlyOne (k := .pulsePeriod) rfl (serialize_of_u16 rfl) fun _ => rfl⟩, rfl⟩

/-- Settles O18: R133's masks are the rows of the address table under the default ports. -/
theorem ledCurrentFollowsItsTable : Obligations.LedCurrentFollowsItsTable :=
  ⟨shapeRule_instrOf .ledCurrent,
   followsMaskTable_exactlyOne (k := .ledCurrent) rfl (serialize_of_u8 rfl) fun _ => rfl⟩

/-- Settles O19: R134's masks are the rows of the address table under the default ports. -/
theorem colorsRgbFollowsItsTable : Obligations.ColorsRgbFollowsItsTable :=
  ⟨shapeRule_instrOf .colorsRgb,
   followsMaskTable_exactlyOne (k := .colorsRgb) rfl (serialize_of_arr3 rfl) fun _ => rfl⟩

/-- Settles O20: the rows are each kind's address table, PulsePeriod's with `ADDR_PULSE_DIGITAL3` = 71, and a
well-formed port table keeps the ports apart. -/
theorem exactlyOneKindsFollowTheRegisterTable : Obligations.ExactlyOneKindsFollowTheRegisterTable :=
  ⟨followsPortTable_exactlyOne (k := .pwmFrequency) rfl (serialize_of_u16 rfl) fun _ _ => rfl,
   followsPortTable_exactlyOne (k := .ledCurrent) rfl (serialize_of_u8 rfl) fun _ _ => rfl,
   followsPortTable_exactlyOne (k := .pulsePeriod) rfl (serialize_of_u16 rfl) fun p h => by
     rw [addressRows_pulsePeriod, pulsePeriodRows, h],
   followsPortTable_exactlyOne (k := .colorsRgb) rfl (serialize_of_arr3 rfl) fun _ _ => rfl⟩

end Sys2Proof.Machine
end

section
/-! PROOFS. The register-direct kinds (spec/44_register_direct.md R150 to R155): no mask is refused, and the raw payload
goes to the kind's own register, in the frame form of the shape the kind requires. -/

namespace Sys2Proof.Machine

open Sys2Proof.Claims

/-- The six bytes stand in index order (R45). -/
theorem serialize_of_arr6 {k : Kind} (h : requiredShape k = .arr6) (p : Params) (addr : Byte) (m : Mask) (l : Lanes) :
    serialize p k addr m l = frameOf6 p addr l.toNat := by
  have hpayload : serialize p k addr m l =
      frameArr6 p addr (lane l 0) (lane l 1) (lane l 2) (lane l 3) (lane l 4) (lane l 5) := by
    cases k with
    | colorsRgbs => rfl
    | _ => cases h
  simp only [hpayload, lane_eq_ofNat, Nat.mul_zero, Nat.pow_zero, Nat.div_one]
  rfl

section
variable {k : Kind} (hk : legalityClass k = .registerDirect)
include hk

theorem legal_registerDirect (t : PortTable) (m : Mask) : legal t k m = true := by simp [legal, hk]

/-- A register-direct kind refuses no mask and writes its payload to its own address, be it a parameter (R155). -/
theorem writesRawPayload_registerDirect {addrOf : Params → Byte} {frameOf : Params → Byte → Lanes → Frame}
    (haddr : ∀ p, fixedAddress p k = some (addrOf p))
    (hframe : ∀ p addr m l, serialize p k addr m l = frameOf p addr l) :
    WritesRawPayload (instrOf k) (requiredShape k) fun p l => frameOf p (addrOf p) l := by
  intro s m l
  have h : legalAddress s.params k m = some (addrOf s.params) := by
    rw [legalAddress_of_fixedAddress (haddr s.params), legal_registerDirect hk, if_pos rfl]
  rw [exec_of_legalAddress h, hframe]

end

/-- Settles O21: the three are register-direct kinds of shape U16. -/
theorem registerOutputsWriteTheRawPayload : Obligations.RegisterOutputsWriteTheRawPayload :=
  ⟨⟨shapeRule_instrOf .registerSetOutputs,
    writesRawPayload_registerDirect (k := .registerSetOutputs) rfl (fun _ => rfl) (serialize_of_u16 rfl)⟩,
   ⟨shapeRule_instrOf .registerClearOutputs,
    writesRawPayload_registerDirect (k := .registerClearOutputs) rfl (fun _ => rfl) (serialize_of_u16 rfl)⟩,
   ⟨shapeRule_instrOf .registerToggleOutputs,
    writesRawPayload_registerDirect (k := .registerToggleOutputs) rfl (fun _ => rfl) (serialize_of_u16 rfl)⟩⟩

/-- Settles O22: the two are register-direct kinds of shape U8, whose payload the serializer does not shift. -/
theorem registerPwmWritesTheRawPayload : Obligations.RegisterPwmWritesTheRawPayload :=
  ⟨⟨shapeRule_instrOf .registerStartPwm,
    writesRawPayload_registerDirect (k := .registerStartPwm) rfl (fun _ => rfl) (serialize_of_u8 rfl)⟩,
   ⟨shapeRule_instrOf .registerStopPwm,
    writesRawPayload_registerDirect (k := .registerStopPwm) rfl (fun _ => rfl) (serialize_of_u8 rfl)⟩⟩

/-- Settles O23: the one register-direct kind of shape ARR6, whose address and length element are parameters. -/
theorem colorsRgbsWritesSixBytes : Obligations.ColorsRgbsWritesSixBytes :=
  ⟨⟨shapeRule_instrOf .colorsRgbs,
    writesRawPayload_registerDirect (k := .colorsRgbs) rfl (fun _ => rfl) (serialize_of_arr6 rfl)⟩, rfl, rfl⟩

end Sys2Proof.Machine
end

section
/-! PROOFS. The shape and the mask faults of a decoded command (spec/60_exceptions.md R172, R173): which of the three
ways a command ends, by its shape and its mask alone. -/

namespace Sys2Proof.Machine

open Sys2Proof.Claims

@[simp] theorem afterFrame_status (s : State) (f : Frame) : (s.afterFrame f).status = some .ok := rfl

@[simp] theorem afterFault_status (s : State) (c : Status) (x : CommandFault) :
    (s.afterFault c x).status = some c := rfl

/-! ### The three ends of a command -/

/-- Stages 2 and 3 give up only in stage 2: the resolver has an address for every legal mask (R96). -/
theorem legalAddress_eq_none {p : Params} {k : Kind} {m : Mask} :
    legalAddress p k m = none ↔ legal p.ports k m = false := by
  cases ha : fixedAddress p k with
  | some addr => simp [legalAddress_of_fixedAddress ha]
  | none =>
    have hc := fixedAddress_eq_none.1 ha
    rw [legalAddress_exactlyOne hc, legal_exactlyOne hc]

/-- The payload is in none of the three conditions (R172, R173). -/
theorem exec_cases_shape_mask (i : Instr) (s : State) :
    (i.shape ≠ requiredShape i.kind ∧
      exec i s = .next (s.afterFault .invalidPayloadShape (.invalidPayloadShape i.kind i.shape))) ∨
    (i.shape = requiredShape i.kind ∧ legal s.params.ports i.kind i.mask = false ∧
      exec i s = .next (s.afterFault .invalidMaskSelection (.invalidMaskSelection i.kind i.mask))) ∨
    (i.shape = requiredShape i.kind ∧ legal s.params.ports i.kind i.mask = true ∧
      ∃ f, exec i s = .next (s.afterFrame f)) := by
  by_cases hsh : i.shape = requiredShape i.kind
  · cases ha : legalAddress s.params i.kind i.mask with
    | none =>
      have h := exec_of_no_address ha i.payload
      rw [← hsh, instrOf_fields] at h
      exact .inr (.inl ⟨hsh, legalAddress_eq_none.1 ha, h⟩)
    | some addr =>
      have hlegal : legal s.params.ports i.kind i.mask ≠ false := by simp [← legalAddress_eq_none, ha]
      have h := exec_of_legalAddress ha i.payload
      rw [← hsh, instrOf_fields] at h
      exact .inr (.inr ⟨hsh, Bool.eq_true_of_not_eq_false hlegal, _, h⟩)
  · have h := exec_of_wrong_shape hsh i.mask i.payload s
    rw [instrOf_fields] at h
    exact .inl ⟨hsh, h⟩

/-! ### The model's tables against those the statements transcribe -/

theorem eq_requiredShape_of_mem_shapeTable : ∀ c ∈ shapeTable, c.2 = requiredShape c.1 := by decide

theorem rangeRestricted_iff {k : Kind} : legalityClass k = .rangeRestricted ↔ k = .startPwm ∨ k = .stopPwm := by
  cases k <;> simp [legalityClass]

/-- R93 in numbers: a mask equals the constant of a port exactly where their values are equal. -/
theorem legal_defaultPorts_iff (k : Kind) (m : Mask) : legal defaultPorts k m = true ↔ LegalMask k m.toNat := by
  cases k with
  | startPwm | stopPwm => exact legalRange_iff m
  | pwmFrequency | ledCurrent | pulsePeriod | colorsRgb =>
    simp [legal, legalityClass, allowedPorts, digitalPorts, Port.all, PortTable.bit, defaultPorts, LegalMask,
      ← BitVec.toNat_inj]
  | _ => exact iff_of_true rfl trivial

theorem not_legalMask_iff {t : PortTable} (ht : t = defaultPorts) (k : Kind) (m : Mask) :
    ¬ LegalMask k m.toNat ↔ legal t k m = false := by
  rw [ht, ← legal_defaultPorts_iff, Bool.not_eq_true]

/-! ### The statements -/

/-- Settles O30: only the first of the three ends has this status, and it is the end of a wrong shape. -/
theorem wrongShapeIsInvalidPayloadShape : Obligations.WrongShapeIsInvalidPayloadShape := by
  intro c hc i s hk
  rw [eq_requiredShape_of_mem_shapeTable c hc, ← hk]
  obtain ⟨hsh, h⟩ | ⟨hsh, -, h⟩ | ⟨hsh, -, f, h⟩ := exec_cases_shape_mask i s
  · exact ⟨_, h, by simp [hsh], fun _ => rfl⟩
  · exact ⟨_, h, by simp [hsh], absurd hsh⟩
  · exact ⟨_, h, by simp [hsh], absurd hsh⟩

/-- Settles O31: with the shape right, the second end is that of a mask outside the legal set, and only it has this
status. -/
theorem illegalMaskIsInvalidMaskSelection : Obligations.IllegalMaskIsInvalidMaskSelection := by
  intro c hc i s hports hk hshape
  rw [eq_requiredShape_of_mem_shapeTable c hc, ← hk] at hshape
  have hmessage := fun h : i.kind = .startPwm ∨ i.kind = .stopPwm =>
    message_rangeRestricted (rangeRestricted_iff.2 h) i.mask
  rw [not_legalMask_iff hports]
  obtain ⟨hsh, -⟩ | ⟨-, hm, h⟩ | ⟨-, hm, f, h⟩ := exec_cases_shape_mask i s
  · exact absurd hshape hsh
  · exact ⟨_, h, by simp [hm], fun _ => rfl, hmessage⟩
  · exact ⟨_, h, by simp [hm], by simp [hm], hmessage⟩

end Sys2Proof.Machine
end

section
/-! PROOFS. The decoder and the encoder as inverses, the decoder's fields as arithmetic (spec/30_encoding.md R60 to R63),
and the word carried as bytes (spec/20_memory.md R46). -/

namespace Sys2Proof

/-! ### The decoder, an equation for each way it ends -/

theorem decode_of_kindOfCode_none {w : CmdWord} (h : kindOfCode (kindField w) = none) :
    decode w = .error (.illegalKind w) := by
  simp [decode, h]

theorem decode_of_kindOfCode_some {w : CmdWord} {k : Kind} (h : kindOfCode (kindField w) = some k) :
    decode w = .ok (instrOf k (shapeOfCode (shapeField w)) (maskField w) (payloadField w)) := by
  simp [decode, h]

/-- A well-formed command is decoded from its own word and from no other. -/
theorem decode_eq_ok_iff {w : CmdWord} {i : Instr} : decode w = .ok i ↔ encode i = w ∧ i.wf = true := by
  constructor
  · intro h
    cases hk : kindOfCode (kindField w) with
    | none => rw [decode_of_kindOfCode_none hk] at h; cases h
    | some k =>
      rw [decode_of_kindOfCode_some hk] at h
      obtain rfl := Except.ok.inj h
      simp [encode, code_of_kindOfCode hk, packWord_fields, wf_instrOf]
  · rintro ⟨rfl, hwf⟩
    exact decode_encode_of_wf hwf

/-! ### The fields as arithmetic -/

theorem kindField_toNat (w : CmdWord) : (kindField w).toNat = w.toNat / 2 ^ 68 := by
  rw [kindField, field_toNat]
  have := w.isLt
  omega

theorem shapeField_toNat (w : CmdWord) : (shapeField w).toNat = w.toNat / 2 ^ 64 % 16 := field_toNat w 64 4

theorem maskField_toNat (w : CmdWord) : (maskField w).toNat = w.toNat / 2 ^ 48 % 65536 := field_toNat w 48 16

theorem payloadField_toNat (w : CmdWord) : (payloadField w).toNat = w.toNat % 2 ^ 48 := by
  rw [payloadField, field_toNat, Nat.pow_zero, Nat.div_one]

theorem kindOfCode_kindField_eq_none {w : CmdWord} :
    kindOfCode (kindField w) = none ↔ w.toNat / 2 ^ 68 = 15 := by
  rw [kindOfCode_none, ← BitVec.toNat_inj, kindField_toNat]
  rfl

theorem kindOfCode_kindField_eq_some {w : CmdWord} {k : Kind} :
    kindOfCode (kindField w) = some k ↔ k.code.toNat = w.toNat / 2 ^ 68 := by
  rw [← kindField_toNat, BitVec.toNat_inj]
  constructor
  · exact code_of_kindOfCode
  · intro h
    rw [← h, kindOfCode_code]

/-! ### The word as bytes -/

theorem bytesOfWord_getElem? (w : CmdWord) {k : Nat} (hk : k < 9) :
    (bytesOfWord w)[k]? = some (BitVec.ofNat 8 (w.toNat / 256 ^ k)) := by
  have hbyte : w.extractLsb' (8 * k) 8 = BitVec.ofNat 8 (w.toNat / 256 ^ k) := by
    apply BitVec.eq_of_toNat_eq
    rw [field_toNat, BitVec.toNat_ofNat, Nat.pow_mul]
  simp [bytesOfWord, hk, hbyte]

/-- Each byte joins the field above it, down to the whole word. -/
theorem wordOfBytes_bytesOfWord (w : CmdWord) : wordOfBytes (bytesOfWord w) = some w := by
  have hlist : bytesOfWord w = [w.extractLsb' 0 8, w.extractLsb' 8 8, w.extractLsb' 16 8, w.extractLsb' 24 8,
      w.extractLsb' 32 8, w.extractLsb' 40 8, w.extractLsb' 48 8, w.extractLsb' 56 8, w.extractLsb' 64 8] := rfl
  have join (lo len : Nat) :
      w.extractLsb' (lo + 8) len ++ w.extractLsb' lo 8 = w.extractLsb' lo (len + 8) :=
    BitVec.extractLsb'_append_extractLsb'_eq_extractLsb' rfl
  rw [hlist, wordOfBytes, join 56 8, join 48 16, join 40 24, join 32 32, join 24 40, join 16 48, join 8 56, join 0 64,
    BitVec.extractLsb'_eq_self]

theorem wordOfBytes_of_length_ne_nine {bs : List Byte} (h : bs.length ≠ 9) : wordOfBytes bs = none := by
  unfold wordOfBytes
  split
  · exact absurd rfl h
  · rfl

/-! ### The statements -/

/-- Settles O1: the four fields of the packed word are the command's own, and a well-formed shape is named by its code. -/
theorem decodeEncodeRoundTrip : Obligations.DecodeEncodeRoundTrip := fun _ => decode_encode_of_wf

/-- Settles O2: a word is no more than its four fields. -/
theorem encodeDecodeRoundTrip : Obligations.EncodeDecodeRoundTrip := fun _ _ => decode_eq_ok_iff.1

/-- Settles O3, by whether the kind code names a kind. -/
theorem decodeTakesTheFourFields : Obligations.DecodeTakesTheFourFields := by
  intro w
  rw [Ne, ← kindOfCode_kindField_eq_none]
  refine ⟨decode_of_kindOfCode_none, fun h => ?_⟩
  obtain ⟨k, hk⟩ := Option.ne_none_iff_exists'.1 h
  refine ⟨_, decode_of_kindOfCode_some hk, ?_⟩
  rw [instrOf_kind, instrOf_shape, instrOf_mask, instrOf_payload, (code_shapeOfCode _).1]
  exact ⟨kindOfCode_kindField_eq_some.1 hk, shapeField_toNat w, maskField_toNat w, payloadField_toNat w⟩

/-- Settles O4: the decoder runs on the seven words. -/
theorem wordsOfTheSpecDecode : Obligations.WordsOfTheSpecDecode := by
  refine ⟨?_, ?_, ?_, ?_, ?_, ?_, ?_⟩ <;> decide

/-- Settles O5: the word of the nine bytes is the word they were taken from, and no other list of bytes has a word. -/
theorem wordsTravelLeastSignificantByteFirst : Obligations.WordsTravelLeastSignificantByteFirst := by
  refine ⟨fun w => ⟨?_, rfl, fun k => bytesOfWord_getElem? w⟩, fun bs h => ?_⟩
  · simp [decodeBytes, wordOfBytes_bytesOfWord]
  · simp [decodeBytes, wordOfBytes_of_length_ne_nine h]

end Sys2Proof
end

section
/-! PROOFS. What every command leaves on the ports and on record (spec/10_state.md R20 to R28), a run as the pipeline on
each word in turn (spec/70_reset_and_hazards.md R207), and a fault that leaves no trace (spec/60_exceptions.md R177). -/

namespace Sys2Proof.Machine

/-! ### What a result does to the state, field by field -/

section
variable (s : State) (r : Result)

@[simp] theorem takeResult_cmds : (s.takeResult r).cmds = s.cmds := by cases r <;> rfl
@[simp] theorem takeResult_params : (s.takeResult r).params = s.params := by cases r <;> rfl
@[simp] theorem takeResult_ci : (s.takeResult r).ci = s.ci + 1 := by cases r <;> rfl
@[simp] theorem takeResult_results : (s.takeResult r).results = s.results ++ [r] := by cases r <;> rfl
@[simp] theorem takeResult_status : (s.takeResult r).status = some r.status := by cases r <;> rfl
@[simp] theorem takeResult_frame : (s.takeResult r).frame = r.frame?.getD [] := by cases r <;> rfl

@[simp] theorem takeResult_frameStream : (s.takeResult r).frameStream = s.frameStream ++ r.frame?.toList := by
  cases r with
  | ok f => exact emit_frameStream s f
  | fault x => rw [takeResult_fault, takeFault_frameStream]; exact (List.append_nil _).symm

end

/-- Only a result with a frame has the status `OK`. -/
theorem result_status_eq_ok {r : Result} : r.status = .ok ↔ ∃ f, r = .ok f := by
  cases r with
  | ok f => simp [Result.status]
  | fault x => simp [Result.status]

/-! ### The step and the run -/

theorem pipeline_of_kindOfCode_none {p : Params} {w : CmdWord} (h : kindOfCode (kindField w) = none) :
    pipeline p w = .fault (.illegalKind w) := by
  simp [pipeline, h]

theorem pipeline_of_kindOfCode_some {p : Params} {w : CmdWord} {k : Kind} (h : kindOfCode (kindField w) = some k) :
    pipeline p w = runStages p k (shapeOfCode (shapeField w)) (maskField w) (payloadField w) := by
  simp [pipeline, h]

theorem step_of_no_command {s : State} (h : s.cmds = []) : step s = .fault .noCommand := by simp [step, h]

theorem step_of_decode_ok {s : State} {w : CmdWord} {rest : List CmdWord} {i : Instr} (hc : s.cmds = w :: rest)
    (hd : decode w = .ok i) : step s = exec i (s.takeCommand rest) := by
  simp [step, hc, hd]

theorem run_succ_of_step {s t : State} (h : step s = .next t) (n : Nat) :
    Host.Core.run Sys2Proof.core (n + 1) s = Host.Core.run Sys2Proof.core n t := by
  have hstep : Sys2Proof.core.step s = .next t := h
  simp [Host.Core.run, hstep]

theorem frameStream_of_results {s t : State} {rs : List Result} (h : t.results = s.results ++ rs) :
    t.frameStream = s.frameStream ++ rs.filterMap Result.frame? := by
  rw [State.frameStream, State.frameStream, h, List.filterMap_append]

/-- A run of the words presented puts the pipeline's result of each on record, one after the other. -/
theorem exists_run_results (cs : List CmdWord) : ∀ s : State, s.cmds = cs →
    ∃ t, Host.Core.run Sys2Proof.core cs.length s = .next t ∧ t.cmds = [] ∧ t.params = s.params ∧
      t.ci = s.ci + cs.length ∧ t.results = s.results ++ cs.map (pipeline s.params) := by
  induction cs with
  | nil => exact fun s hc => ⟨s, rfl, hc, rfl, rfl, by simp⟩
  | cons w rest ih =>
    intro s hc
    obtain ⟨t, hrun, hcmds, hparams, hci, hresults⟩ :=
      ih ((s.takeCommand rest).takeResult (pipeline s.params w)) (by simp)
    refine ⟨t, ?_, hcmds, by simpa using hparams, ?_, by simpa using hresults⟩
    · rw [List.length_cons, run_succ_of_step (step_eq_pipeline hc)]
      exact hrun
    · rw [hci, takeResult_ci, takeCommand_ci, List.length_cons]
      omega

/-! ### The statements -/

/-- Settles O7, by the step's equation for a word that decodes. -/
theorem stepRunsTheDecodedCommand : Obligations.StepRunsTheDecodedCommand := fun _ _ _ _ => step_of_decode_ok

/-- Settles O8: the word placed is the first presented, and taking it leaves the state as it was before. -/
theorem placedWordRunsNext : Obligations.PlacedWordRunsNext := by
  intro s w i h
  have hd : decode (BitVec.ofNat 72 (w % 2 ^ 72)) = .ok i := by
    rw [decodeTableWord, if_pos (by decide)] at h
    cases hd : decode (BitVec.ofNat 72 (w % 2 ^ 72)) with
    | error e => rw [hd] at h; cases h
    | ok j => rw [hd] at h; exact congrArg _ (Option.some.inj h)
  exact step_of_decode_ok (withFetchWord_cmds s 72 w) hd

/-- Settles O9: kind code 15 names no kind, so the decoder hands on no command. -/
theorem kindCodeFifteenIsIllegalKind : Obligations.KindCodeFifteenIsIllegalKind := by
  refine ⟨rfl, fun s w rest hc h15 => ?_⟩
  rw [step_eq_pipeline hc, pipeline_of_kindOfCode_none (kindOfCode_kindField_eq_none.2 h15)]
  rfl

/-- Settles O10: the one result is the pipeline's. -/
theorem stepAnswersEveryPresentedCommand : Obligations.StepAnswersEveryPresentedCommand :=
  ⟨fun s w rest hc => ⟨_, pipeline s.params w, step_eq_pipeline hc, by simp⟩, fun _ => step_of_no_command⟩

/-- Settles O12, by induction on the words presented; the frame stream is read off the results on record. -/
theorem runAnswersEveryCommandInOrder : Obligations.RunAnswersEveryCommandInOrder := by
  intro s
  obtain ⟨t, hrun, hcmds, hparams, hci, hresults⟩ := exists_run_results s.cmds s rfl
  exact ⟨t, hrun, hcmds, hparams, hci, hresults, frameStream_of_results hresults⟩

/-- Settles O34: the faulting command left the queue behind it, the parameters and the frame stream as they were. -/
theorem faultDoesNotTouchTheNextCommand : Obligations.FaultDoesNotTouchTheNextCommand := by
  intro s t w w' rest hc hstep hstatus
  obtain rfl := Host.Outcome.next.inj ((step_eq_pipeline hc).symm.trans hstep)
  cases hr : pipeline s.params w with
  | ok f => exact absurd (by simp [hr]) hstatus
  | fault x =>
    have hnext : ((s.takeCommand (w' :: rest)).takeResult (.fault x)).cmds = w' :: rest := rfl
    refine ⟨_, _, step_eq_pipeline hnext, step_eq_pipeline (s := s.takeCommand (w' :: rest)) rfl, ?_⟩
    simp [Result.frame?]

/-- Settles O35: the one result is the stages' on the command. -/
theorem everyCommandKeepsTheRestOfTheState : Obligations.EveryCommandKeepsTheRestOfTheState := fun i s =>
  ⟨_, resultOf s.params i, exec_eq_resultOf i s, by simp⟩

/-- Settles O36: the stages read the command and the parameters only. -/
theorem resultDependsOnCommandAndParametersOnly : Obligations.ResultDependsOnCommandAndParametersOnly :=
  fun i s s' hp => ⟨_, _, resultOf s.params i, exec_eq_resultOf i s, exec_eq_resultOf i s', by simp [hp]⟩

end Sys2Proof.Machine
end

section
/-! PROOFS. Every frame emitted is one of the block's (spec/30_encoding.md R70 to R78, spec/10_state.md R27), and with it
the invariant that every step keeps, the reading back of a frame (R77) and the request it carries
(spec/40_pipeline.md R100). -/

namespace Sys2Proof.Machine

open Sys2Proof.Claims

/-! ### The register a kind writes to -/

/-- How many payload bytes the frame of a kind carries: the payload's own, or those of the mask written in its place
(R97). -/
def writtenBytes (k : Kind) : Nat :=
  match legalityClass k with
  | .multiSelect => 2
  | .rangeRestricted => 1
  | .exactlyOne | .registerDirect => (requiredShape k).byteCount

/-- R27 as pairs of an address and a number of payload bytes. -/
def targetWidths (p : Params) : List (Byte × Nat) := (targetRegisters p).map fun r => (r.addr, r.nBytes)

theorem mem_targetWidths_of_fixedAddress {p : Params} {k : Kind} {addr : Byte} (h : fixedAddress p k = some addr) :
    (addr, writtenBytes k) ∈ targetWidths p := by
  cases k with
  | pwmFrequency | ledCurrent | pulsePeriod | colorsRgb => cases h
  | _ => cases h; simp [targetWidths, targetRegisters, writtenBytes, legalityClass, requiredShape, Shape.byteCount]

theorem mem_targetWidths_of_mem_addressRows {p : Params} {k : Kind} :
    ∀ r ∈ addressRows p k, (r.2, writtenBytes k) ∈ targetWidths p := by
  cases k <;>
    simp [addressRows, Port.all, portAddress, targetWidths, targetRegisters, writtenBytes, legalityClass, requiredShape,
      Shape.byteCount]

/-- Every address the resolver gives a legal mask is that of a register of the kind's width (R27, R96). -/
theorem mem_targetWidths_of_legalAddress {p : Params} {k : Kind} {m : Mask} {addr : Byte}
    (h : legalAddress p k m = some addr) : (addr, writtenBytes k) ∈ targetWidths p := by
  cases ha : fixedAddress p k with
  | some a =>
    rw [legalAddress_of_fixedAddress ha] at h
    split at h
    · exact mem_targetWidths_of_fixedAddress (ha.trans h)
    · cases h
  | none =>
    rw [legalAddress_exactlyOne (fixedAddress_eq_none.1 ha)] at h
    obtain ⟨r, hr, -, rfl⟩ := lookupPort_some h
    exact mem_targetWidths_of_mem_addressRows r hr

theorem targetRegister_nBytes {p : Params} {r : TargetRegister} (h : r ∈ targetRegisters p) :
    r.is16 = true ∧ r.nBytes = 2 ∨ r.is16 = false ∧ (r.nBytes = 1 ∨ r.nBytes = 3 ∨ r.nBytes = 6) := by
  revert r
  simp [targetRegisters]

theorem targetRegister_addr {p : Params} (h46 : p.addrColorsRgbs = 46) (h71 : p.addrPulseDigital3 = 71)
    {r : TargetRegister} (h : r ∈ targetRegisters p) : r.addr.toNat ∈ frameAddresses := by
  revert r
  simp [targetRegisters, h46, h71, frameAddresses]

/-! ### The frame -/

/-- The type tag of a frame of `n` payload bytes: 16 bits are the one form with a tag of its own (R71). -/
def tagOf (p : Params) (n : Nat) : Byte := if n = 2 then p.tagU16 else p.tagU8

theorem serialize_eq_layFrame_lengthElement (p : Params) (k : Kind) (addr : Byte) (m : Mask) (l : Lanes) :
    ∃ bs : List Byte, bs.length = writtenBytes k ∧
      serialize p k addr m l = layFrame (lengthElement p (writtenBytes k)) addr (tagOf p (writtenBytes k)) bs := by
  cases k <;> exact ⟨_, rfl, rfl⟩

/-- A frame as `FrameOk` has it, over the serializer's own constructor. -/
theorem frameOk_iff {p : Params} {f : Frame} : FrameOk p f ↔
    ∃ r ∈ targetRegisters p, ∃ bs : List Byte, bs.length = r.nBytes ∧
      f = layFrame (lengthElement p r.nBytes) r.addr (tagOf p r.nBytes) bs := by
  refine exists_congr fun r => and_congr_right fun hr => exists_congr fun bs => and_congr_right fun _ => ?_
  have htag : (if r.is16 then p.tagU16 else p.tagU8) = tagOf p r.nBytes := by
    obtain ⟨h16, hn⟩ | ⟨h16, hn⟩ := targetRegister_nBytes hr
    · simp [tagOf, h16, hn]
    · rw [h16, tagOf, if_neg Bool.false_ne_true, if_neg (by omega)]
  rw [htag]
  rfl

theorem frameOk_of_pipeline {p : Params} {w : CmdWord} {f : Frame} (h : pipeline p w = .ok f) : FrameOk p f := by
  cases hk : kindOfCode (kindField w) with
  | none => rw [pipeline_of_kindOfCode_none hk] at h; cases h
  | some k =>
    rw [pipeline_of_kindOfCode_some hk] at h
    obtain ⟨addr, haddr, rfl⟩ := runStages_eq_ok h
    obtain ⟨r, hr, e⟩ := List.mem_map.1 (mem_targetWidths_of_legalAddress haddr)
    obtain ⟨rfl, hn⟩ := Prod.mk.inj e
    obtain ⟨bs, hbs, e⟩ := serialize_eq_layFrame_lengthElement p k r.addr (maskField w) (payloadField w)
    rw [← hn] at hbs e
    exact frameOk_iff.2 ⟨r, hr, bs, hbs, e⟩

/-- What a step with status `OK` did: it put one frame of the block on the port and on record. -/
theorem exists_emit_of_step_ok {s t : State} (h : step s = .next t) (hok : t.status = some .ok) :
    FrameOk s.params t.frame ∧ t.frameStream = s.frameStream ++ [t.frame] := by
  obtain ⟨w, rest, -, rfl⟩ := exists_pipeline_of_step h
  obtain ⟨f, hf⟩ := result_status_eq_ok.1 (by simpa using hok)
  rw [hf]
  exact ⟨frameOk_of_pipeline hf, emit_frameStream _ f⟩

/-! ### The length element -/

theorem lengthElement_toNat {p : Params} {r : TargetRegister} (h10 : p.lenArr6 = 10) (hr : r ∈ targetRegisters p) :
    (lengthElement p r.nBytes).toNat = r.nBytes + 4 := by
  rw [lengthElement, h10]
  obtain ⟨-, hn⟩ | ⟨-, hn | hn | hn⟩ := targetRegister_nBytes hr <;> rw [hn] <;> rfl

/-! ### The invariant -/

theorem takeResult_portsShowLastResult (s : State) (r : Result) : (s.takeResult r).PortsShowLastResult := by
  cases r <;> simp [State.PortsShowLastResult]

/-- A result keeps the invariant, if its frame is one of the block's. -/
theorem takeResult_inv {s : State} {r : Result} (h : s.Inv) (hr : ∀ f, r = .ok f → FrameOk s.params f) :
    (s.takeResult r).Inv := by
  obtain ⟨hci, -, hframes⟩ := h
  refine ⟨by simp [hci], takeResult_portsShowLastResult s r, ?_⟩
  rw [takeResult_params]
  cases r with
  | ok f =>
    intro g hg
    rw [takeResult_ok, emit_frameStream, List.mem_append, List.mem_singleton] at hg
    obtain hg | rfl := hg
    · exact hframes g hg
    · exact hr g rfl
  | fault x => rwa [takeResult_fault, takeFault_frameStream]

/-! ### The statements -/

/-- Settles O46: each field as `State.reset` has it. -/
theorem resetIsIdle : Obligations.ResetIsIdle :=
  ⟨rfl, rfl, rfl, rfl, rfl, by decide, rfl, rfl, rfl, rfl, rfl, rfl, rfl⟩

/-- Settles O47: nothing is on record after reset. -/
theorem resetMeetsTheInvariant : Obligations.ResetMeetsTheInvariant :=
  ⟨rfl, ⟨rfl, rfl⟩, fun _ hf => absurd hf List.not_mem_nil⟩

/-- Settles O48: a step puts the pipeline's result of its word on record, and the pipeline emits frames of the block
only. -/
theorem everyStepKeepsTheInvariant : Obligations.EveryStepKeepsTheInvariant := by
  intro s t hinv hstep
  obtain ⟨w, rest, -, rfl⟩ := exists_pipeline_of_step hstep
  exact takeResult_inv (s := s.takeCommand rest) hinv fun f => frameOk_of_pipeline

/-- Settles O40: the fields of a frame of the block, by the widths and addresses of the target registers. -/
theorem everyEmittedFrameIsLaidOut : Obligations.EveryEmittedFrameIsLaidOut := by
  intro s t hstep hok htags h10 h46 h71
  obtain ⟨r, hr, bs, hbs, hf⟩ := frameOk_iff.1 (exists_emit_of_step_ok hstep hok).1
  have hlen := lengthElement_toNat h10 hr
  have hn : r.nBytes = 1 ∨ r.nBytes = 2 ∨ r.nBytes = 3 ∨ r.nBytes = 6 := by
    have := targetRegister_nBytes hr
    tauto
  have htag : tagOf s.params r.nBytes = s.params.tagU16 ↔ r.nBytes = 2 := by
    rw [tagOf, ite_eq_left_iff]
    exact ⟨fun h => of_not_not fun hne => htags (h hne), absurd⟩
  refine ⟨_, r.addr, tagOf s.params r.nBytes, bs, hf, by omega, targetRegister_addr h46 h71 hr, ?_, ?_,
    ⟨r, hr, rfl, hlen.symm⟩, by rw [hf, layFrame_length]; omega⟩
  · rw [htag]; omega
  · exact (ite_eq_or_eq _ _ _).symm

/-- Settles O41: with `LEN_ARR6` = 10 the length element counts the elements that follow it. -/
theorem frameEndsWhereItsLengthSays : Obligations.FrameEndsWhereItsLengthSays := by
  intro s t after hstep hok h10
  obtain ⟨r, hr, bs, hbs, hf⟩ := frameOk_iff.1 (exists_emit_of_step_ok hstep hok).1
  rw [hf]
  exact readFrame_layFrame r.addr _ (by rw [lengthElement_toNat h10 hr, hbs]) after

/-- Settles O42: a laid-out frame reads as the write of its payload to its address, a target register's. -/
theorem emittedFrameCarriesOneWriteRequest : Obligations.EmittedFrameCarriesOneWriteRequest := by
  intro s t hstep hok
  obtain ⟨hframe, hstream⟩ := exists_emit_of_step_ok hstep hok
  obtain ⟨r, hr, bs, hbs, hf⟩ := frameOk_iff.1 hframe
  have hrequest : frameRequest t.frame = some ⟨r.addr, bs⟩ := by rw [hf, frameRequest_layFrame]
  refine ⟨_, hrequest, ?_, r, hr, rfl, hbs.symm⟩
  simp [State.requests, hstream, hrequest]

end Sys2Proof.Machine
end

section
/-! PROOFS. The status of a command by its word (spec/60_exceptions.md R171 to R175, spec/30_encoding.md R66), and which
masks a kind accepts (spec/40_pipeline.md R93, R94). -/

namespace Sys2Proof.Machine

open Sys2Proof.Claims

/-! ### The status, an equation for each way a command ends -/

section
variable {p : Params} {k : Kind} {m : Mask}

theorem exists_legalAddress_of_legal (h : legal p.ports k m = true) : ∃ addr, legalAddress p k m = some addr := by
  rw [← Option.ne_none_iff_exists', Ne, legalAddress_eq_none, h]
  exact Bool.noConfusion

theorem runStages_status (sh : Shape) (l : Lanes) : (runStages p k sh m l).status =
    if sh ≠ requiredShape k then .invalidPayloadShape
    else if legal p.ports k m then .ok else .invalidMaskSelection := by
  split
  case isTrue hsh => rw [runStages_mismatch hsh]; rfl
  case isFalse hsh =>
    obtain rfl := of_not_not hsh
    cases hl : legal p.ports k m with
    | true =>
      obtain ⟨addr, ha⟩ := exists_legalAddress_of_legal hl
      rw [runStages_of_address ha]; rfl
    | false => rw [runStages_of_no_address (legalAddress_eq_none.2 hl)]; rfl

end

/-! ### Shapes and their codes -/

theorem requiredShape_wf (k : Kind) : (requiredShape k).wf = true := by cases k <;> rfl

theorem shapeOfCode_eq_requiredShape {c : BitVec 4} {k : Kind} :
    shapeOfCode c = requiredShape k ↔ (requiredShape k).code = c := by
  constructor
  · intro h
    rw [← h, (code_shapeOfCode c).1]
  · rintro rfl
    exact shapeOfCode_code (requiredShape_wf k)

/-- The accepted top bytes are those of a kind with the shape it requires (R66, R91). -/
theorem mem_topBytes_iff (k : Kind) (c : BitVec 4) :
    16 * k.code.toNat + c.toNat ∈ topBytes ↔ (requiredShape k).code = c := by
  cases k <;> revert c <;> decide

/-- The status of a word of a named kind: stage 1 compares the shape codes, stage 2 tests the mask (R91, R93). -/
theorem pipeline_status {p : Params} {w : CmdWord} {k : Kind} (h : kindOfCode (kindField w) = some k) :
    (pipeline p w).status =
      if (requiredShape k).code ≠ shapeField w then .invalidPayloadShape
      else if legal p.ports k (maskField w) then .ok else .invalidMaskSelection := by
  rw [pipeline_of_kindOfCode_some h, runStages_status]
  simp only [Ne, shapeOfCode_eq_requiredShape]

/-! ### The masks a kind accepts -/

theorem accepts_iff {s : State} {k : Kind} {m : Mask} {l : Lanes} :
    Accepts s k m l ↔ legal s.params.ports k m = true := by
  rw [Accepts, exec_instrOf]
  simp [runStages_status]

/-- The legal masks of a kind that tests its mask, under the default ports (R93, R94). -/
def legalMasks (k : Kind) : List Mask :=
  match legalityClass k with
  | .rangeRestricted => (List.range 15).map fun j => BitVec.ofNat 16 ((j + 1) * 1024)
  | _ => (allowedPorts k).map defaultPorts.bit

theorem mem_legalMasks_rangeRestricted {k : Kind} (hk : legalityClass k = .rangeRestricted) (m : Mask) :
    m ∈ legalMasks k ↔ legal defaultPorts k m = true := by
  have hlegal : legal defaultPorts k m = legalRange m := by simp [legal, hk]
  rw [hlegal, legalRange_iff, legalMasks, hk]
  simp only [List.mem_map, List.mem_range, ← BitVec.toNat_inj, BitVec.toNat_ofNat]
  constructor
  · rintro ⟨j, hj, hm⟩
    exact ⟨j + 1, by omega⟩
  · rintro ⟨j, hj⟩
    exact ⟨j - 1, by omega⟩

theorem mem_legalMasks_exactlyOne {k : Kind} (hk : legalityClass k = .exactlyOne) (m : Mask) :
    m ∈ legalMasks k ↔ legal defaultPorts k m = true := by
  simp [legalMasks, legal, hk, eq_comm (a := m)]

/-! ### The statements -/

/-- Settles O6: below 0xF0 the top byte is a kind's code and a shape code, and it is accepted exactly when the two go
together. -/
theorem topByteSelectsTheCommand : Obligations.TopByteSelectsTheCommand := by
  intro s w rest hc
  refine ⟨_, _, step_eq_pipeline hc, takeResult_status _ _, ?_⟩
  have htop : w.toNat / 2 ^ 64 = 16 * (kindField w).toNat + (shapeField w).toNat := by
    rw [kindField_toNat, shapeField_toNat]
    omega
  have hbelow : ∀ n ∈ topBytes, n < 0xF0 := by decide
  cases hk : kindOfCode (kindField w) with
  | none =>
    have h15 := kindOfCode_kindField_eq_none.1 hk
    rw [pipeline_of_kindOfCode_none hk]
    exact ⟨fun _ => rfl, fun h => absurd (hbelow _ h) (by omega), fun h => absurd h (by omega)⟩
  | some k =>
    have hle : k.code.toNat ≤ 14 := by cases k <;> decide
    have hs := (shapeField w).isLt
    rw [htop, ← code_of_kindOfCode hk, mem_topBytes_iff, pipeline_status hk]
    refine ⟨fun h => absurd h (by omega), fun h => ?_, fun _ h => if_pos h⟩
    rw [if_neg (not_not.2 h)]
    exact ite_eq_or_eq _ _ _

/-- Settles O32, by whether the kind code names a kind; if it does, by the shape codes, then by the mask. -/
theorem firstFaultInStageOrderIsReported : Obligations.FirstFaultInStageOrderIsReported := by
  intro s w rest hc
  refine ⟨_, _, step_eq_pipeline hc, takeResult_status _ _, fun h15 => ?_, fun k hk => ?_⟩
  · rw [pipeline_of_kindOfCode_none (kindOfCode_kindField_eq_none.2 h15)]
    rfl
  · have hmask : BitVec.ofNat 16 (w.toNat / 2 ^ 48) = maskField w :=
      BitVec.eq_of_toNat_eq (by rw [BitVec.toNat_ofNat, maskField_toNat])
    rw [pipeline_status (kindOfCode_kindField_eq_some.2 hk), hmask, ← shapeField_toNat, Ne, BitVec.toNat_inj]
    exact ⟨fun hs => by simp [hs, Status.code], fun hs hm => by simp [hs, hm, Status.code],
      fun hs hm => by simp [hs, hm, Status.code]⟩

/-- Settles O28: the list of a kind that tests its mask is the multiples of 1024 up to 15 * 1024, or the constants of
the ports it allows; the other kinds test nothing. -/
theorem legalMaskCounts : Obligations.LegalMaskCounts := by
  constructor
  · intro c hc
    obtain ⟨hnodup, hlength, hclass⟩ : (legalMasks c.1).Nodup ∧ (legalMasks c.1).length = c.2 ∧
        (legalityClass c.1 = .rangeRestricted ∨ legalityClass c.1 = .exactlyOne) := by
      revert c
      decide
    refine ⟨legalMasks c.1, hnodup, hlength, fun s m l hports => ?_⟩
    rw [accepts_iff, hports]
    obtain hk | hk := hclass
    · exact (mem_legalMasks_rangeRestricted hk m).symm
    · exact (mem_legalMasks_exactlyOne hk m).symm
  · intro k hk s m l
    rw [accepts_iff]
    obtain hk | hk := hk
    · exact legal_multiSelect hk _ m
    · exact legal_registerDirect hk _ m

/-- Settles O39: stages 2 and 3 together give up on illegal masks only, and the look-up of an exactly-one kind gives up
on all of them. -/
theorem resolverAnswersLegalMasks : Obligations.ResolverAnswersLegalMasks := by
  intro p k m
  constructor
  · intro hl
    obtain ⟨addr, ha⟩ := exists_legalAddress_of_legal hl
    rw [legalAddress, if_pos hl] at ha
    rw [ha, Option.isSome_some]
  · intro hk hr
    rw [resolve_exactlyOne hk] at hr
    refine Bool.eq_true_of_not_eq_false fun hl => ?_
    rw [(legal_exactlyOne hk p m).1 hl] at hr
    cases hr

end Sys2Proof.Machine
end

section
/-! PROOFS. Laws between the kinds (spec/41_multi_select.md R114, spec/42_range_restricted.md R123,
spec/43_exactly_one.md R135, spec/44_register_direct.md R157, R158): which commands write one frame, and what a frame
tells of the command. -/

namespace Sys2Proof.Machine

open Sys2Proof.Claims

@[simp] theorem afterFrame_frame (s : State) (f : Frame) : (s.afterFrame f).frame = f := rfl

@[simp] theorem afterFault_frame (s : State) (c : Status) (x : CommandFault) : (s.afterFault c x).frame = [] := rfl

/-! ### What a frame tells -/

theorem frameOf8_inj {p : Params} {a a' : Byte} {n n' : Nat} :
    frameOf8 p a n = frameOf8 p a' n' ↔ a = a' ∧ n % 256 = n' % 256 := by
  simp [frameOf8, trueThen, ← BitVec.toNat_inj]

theorem frameOf16_inj {p : Params} {a a' : Byte} {n n' : Nat} :
    frameOf16 p a n = frameOf16 p a' n' ↔ a = a' ∧ n % 65536 = n' % 65536 := by
  simp only [frameOf16, trueThen, List.map_cons, List.cons.injEq, Element.byte.injEq, ← BitVec.toNat_inj,
    BitVec.toNat_ofNat, true_and, and_true]
  omega

theorem frameOf3_inj {p : Params} {a a' : Byte} {n n' : Nat} :
    frameOf3 p a n = frameOf3 p a' n' ↔ a = a' ∧ n % 2 ^ 24 = n' % 2 ^ 24 := by
  simp only [frameOf3, trueThen, List.map_cons, List.cons.injEq, Element.byte.injEq, ← BitVec.toNat_inj,
    BitVec.toNat_ofNat, true_and, and_true]
  omega

theorem frameOf6_inj {p : Params} {a a' : Byte} {n n' : Nat} :
    frameOf6 p a n = frameOf6 p a' n' ↔ a = a' ∧ n % 2 ^ 48 = n' % 2 ^ 48 := by
  simp only [frameOf6, trueThen, List.map_cons, List.cons.injEq, Element.byte.injEq, ← BitVec.toNat_inj,
    BitVec.toNat_ofNat, true_and, and_true]
  omega

theorem class_of_requiredShape_none {k : Kind} (h : requiredShape k = .none) :
    legalityClass k = .multiSelect ∨ legalityClass k = .rangeRestricted := by
  cases k with
  | setOutput | clearOutput | toggleOutput => exact .inl rfl
  | startPwm | stopPwm => exact .inr rfl
  | _ => cases h

/-- The frame tells the address and the payload lanes the kind reads, and nothing else of the payload (R64, R97). -/
theorem serialize_eq_iff (p : Params) (k : Kind) (addr addr' : Byte) (m : Mask) (l l' : Lanes) :
    serialize p k addr m l = serialize p k addr' m l' ↔ addr = addr' ∧
      l.toNat % 2 ^ (8 * (requiredShape k).byteCount) = l'.toNat % 2 ^ (8 * (requiredShape k).byteCount) := by
  cases hsh : requiredShape k with
  | none =>
    obtain hk | hk := class_of_requiredShape_none hsh
    · simp [serialize_multiSelect hk, frame16_eq_frameOf16, frameOf16_inj, Shape.byteCount, Nat.mod_one]
    · simp [serialize_rangeRestricted hk, frame8_eq_frameOf8, frameOf8_inj, Shape.byteCount, Nat.mod_one]
  | u8 => rw [serialize_of_u8 hsh, serialize_of_u8 hsh, frameOf8_inj]; rfl
  | u16 => rw [serialize_of_u16 hsh, serialize_of_u16 hsh, frameOf16_inj, Nat.mod_mod, Nat.mod_mod]; rfl
  | arr3 => rw [serialize_of_arr3 hsh, serialize_of_arr3 hsh, frameOf3_inj]; rfl
  | arr6 => rw [serialize_of_arr6 hsh, serialize_of_arr6 hsh, frameOf6_inj]; rfl
  | reserved c => cases k <;> cases hsh

/-- With the shape right, a command emits the frame to its address, or its mask has none. -/
theorem exec_requiredShape_cases (k : Kind) (m : Mask) (l : Lanes) (s : State) :
    (legalAddress s.params k m = none ∧ exec (instrOf k (requiredShape k) m l) s =
      .next (s.afterFault .invalidMaskSelection (.invalidMaskSelection k m))) ∨
    ∃ addr, legalAddress s.params k m = some addr ∧ exec (instrOf k (requiredShape k) m l) s =
      .next (s.afterFrame (serialize s.params k addr m l)) := by
  cases ha : legalAddress s.params k m with
  | none => exact .inl ⟨rfl, exec_of_no_address ha l⟩
  | some addr => exact .inr ⟨addr, rfl, exec_of_legalAddress ha l⟩

theorem serialize_ne_nil (p : Params) (k : Kind) (addr : Byte) (m : Mask) (l : Lanes) :
    serialize p k addr m l ≠ [] := by
  obtain ⟨len, tag, bs, e⟩ := serialize_eq_layFrame p k addr m l
  rw [e]
  nofun

/-! ### The multi-select kinds -/

theorem exec_multiSelect {k : Kind} (hk : legalityClass k = .multiSelect) (s : State) (m : Mask) (l : Lanes) :
    ∃ addr, fixedAddress s.params k = some addr ∧
      exec (instrOf k .none m l) s = .next (s.afterFrame (frameOf16 s.params addr m.toNat)) := by
  cases k with
  | setOutput => exact ⟨34, rfl, writesWholeMask_multiSelect hk (fun _ => rfl) s m l⟩
  | clearOutput => exact ⟨35, rfl, writesWholeMask_multiSelect hk (fun _ => rfl) s m l⟩
  | toggleOutput => exact ⟨36, rfl, writesWholeMask_multiSelect hk (fun _ => rfl) s m l⟩
  | _ => cases hk

/-! ### The range-restricted kinds -/

theorem pwmBits_getLsbD (m : Mask) {i : Nat} (hi : i < 8) : (pwmBits m).getLsbD i = m.getLsbD (10 + i) := by
  simp [pwmBits, hi]

theorem digitalPort_bit {i : Nat} (hi : i < 4) :
    defaultPorts.bit (digitalPorts.getD i .digital0) = BitVec.twoPow 16 (10 + i) := by
  revert i
  decide

theorem and_twoPow_ne_zero_iff {n i : Nat} (hi : i < n) (m : BitVec n) :
    m &&& BitVec.twoPow n i ≠ 0 ↔ m.getLsbD i = true := by
  have hbit : BitVec.twoPow n i ≠ 0#n := fun h => by simpa [hi] using congrArg (·.getLsbD i) h
  simp [BitVec.and_twoPow, hbit]

/-- No range-restricted command, whatever its shape and mask, writes 0 or a value above 15. -/
theorem exists_frame_ne_frameOf8 {mk : Shape → Mask → Lanes → Instr} {k : Kind} {top n : Nat} {addr : Byte}
    (hshape : ShapeRule mk k .none top) (hmask : WritesShiftedMask mk k addr) (hn : n % 256 = 0 ∨ 16 ≤ n % 256)
    (s : State) (sh : Shape) (m : Mask) (l : Lanes) :
    ∃ t, exec (mk sh m l) s = .next t ∧ t.frame ≠ frameOf8 s.params addr n := by
  obtain ⟨-, hwrong⟩ := hshape
  obtain ⟨hlegal, hillegal, -⟩ := hmask s m l
  by_cases hsh : sh = .none
  · subst hsh
    by_cases hm : ∃ j, 1 ≤ j ∧ j ≤ 15 ∧ m.toNat = j * 1024
    · obtain ⟨j, hj1, hj15, hj⟩ := hm
      refine ⟨_, hlegal j hj1 hj15 hj, ?_⟩
      rw [afterFrame_frame, Ne, frameOf8_inj]
      omega
    · exact ⟨_, hillegal hm, nofun⟩
  · exact ⟨_, hwrong s sh m l hsh, nofun⟩

/-! ### The exactly-one kinds -/

theorem serialize_exactlyOne {k : Kind} (hk : legalityClass k = .exactlyOne) (p : Params) (addr : Byte) (m m' : Mask)
    (l : Lanes) : serialize p k addr m l = serialize p k addr m' l := by
  cases k with
  | pwmFrequency | ledCurrent | pulsePeriod | colorsRgb => rfl
  | _ => cases hk

/-- Two ports with one register make one frame. -/
theorem exec_of_same_address {k : Kind} (hk : legalityClass k = .exactlyOne) {s : State}
    (hinj : Function.Injective s.params.ports.bit) {q q' : Port} {addr : Byte} (h : (q, addr) ∈ addressRows s.params k)
    (h' : (q', addr) ∈ addressRows s.params k) (l : Lanes) :
    exec (instrOf k (requiredShape k) (s.params.ports.bit q) l) s =
      exec (instrOf k (requiredShape k) (s.params.ports.bit q') l) s := by
  rw [exec_of_legalAddress (legalAddress_of_row hk hinj h), exec_of_legalAddress (legalAddress_of_row hk hinj h'),
    serialize_exactlyOne hk]

/-- PwmFrequency and ColorsRgb have a register for each port (R131, R134). -/
theorem addressRows_apart {p : Params} {k : Kind} (hk : k = .pwmFrequency ∨ k = .colorsRgb) :
    ∀ r ∈ addressRows p k, ∀ r' ∈ addressRows p k, r.2 = r'.2 → r.1 = r'.1 := by
  obtain rfl | rfl := hk
  · exact show ∀ r ∈ pwmFrequencyRows, ∀ r' ∈ pwmFrequencyRows, r.2 = r'.2 → r.1 = r'.1 by decide
  · exact show ∀ r ∈ colorsRgbRows, ∀ r' ∈ colorsRgbRows, r.2 = r'.2 → r.1 = r'.1 by decide

/-- Where the registers keep apart, the address tells the mask. -/
theorem mask_eq_of_legalAddress {p : Params} {k : Kind} (hk : k = .pwmFrequency ∨ k = .colorsRgb) {m m' : Mask}
    {addr : Byte} (h : legalAddress p k m = some addr) (h' : legalAddress p k m' = some addr) : m = m' := by
  have hclass : legalityClass k = .exactlyOne := by obtain rfl | rfl := hk <;> rfl
  rw [legalAddress_exactlyOne hclass] at h h'
  obtain ⟨r, hr, rfl, hr2⟩ := lookupPort_some h
  obtain ⟨r', hr', rfl, hr2'⟩ := lookupPort_some h'
  rw [addressRows_apart hk r hr r' hr' (hr2.symm.trans hr2')]

/-! ### The statements -/

/-- Settles O44: the two bytes are remainder and quotient by 256, and a legal PWM mask is a multiple of 1024. -/
theorem narrowingLosesNothing : Obligations.NarrowingLosesNothing := by
  constructor
  · intro v
    rw [lo8_toNat, hi8_toNat]
    omega
  · intro m h
    obtain ⟨j, hj⟩ := (legalRange_iff m).1 h
    rw [pwmBits_toNat]
    omega

/-- Settles O15: the value written is the mask's bits 10 to 13, which are the constants of the Digital ports. -/
theorem pwmValueHasOneBitPerDigitalPort : Obligations.PwmValueHasOneBitPerDigitalPort := by
  intro c hc s t m l hports hexec hok
  obtain ⟨hk, haddr⟩ : legalityClass c.1 = .rangeRestricted ∧ fixedAddress s.params c.1 = some c.2 := by
    simp only [List.mem_cons, List.not_mem_nil, or_false] at hc
    obtain rfl | rfl := hc <;> exact ⟨rfl, rfl⟩
  rw [← requiredShape_rangeRestricted hk] at hexec
  obtain ⟨-, h⟩ | ⟨addr, ha, h⟩ := exec_requiredShape_cases c.1 m l s
  · obtain rfl := Host.Outcome.next.inj (h.symm.trans hexec)
    cases hok
  · obtain rfl := Host.Outcome.next.inj (h.symm.trans hexec)
    rw [legalAddress_rangeRestricted hk haddr, Option.ite_none_right_eq_some] at ha
    obtain ⟨hlegal, e⟩ := ha
    obtain rfl := Option.some.inj e
    have hlt : (pwmBits m).toNat < 16 := by
      obtain ⟨-, -, hle⟩ := narrowingLosesNothing.2 m hlegal
      omega
    rw [afterFrame_frame, serialize_rangeRestricted hk]
    refine ⟨pwmBits m, rfl, hlt, pwmBits_getLsbD m (by decide), pwmBits_getLsbD m (by decide),
      pwmBits_getLsbD m (by decide), pwmBits_getLsbD m (by decide), fun i hi => ?_⟩
    rw [hports, digitalPort_bit hi, and_twoPow_ne_zero_iff (by omega), pwmBits_getLsbD m (by omega)]

/-- Settles O24: both write the same 16 bits to the same register. -/
theorem maskAndRegisterOutputsAgree : Obligations.MaskAndRegisterOutputsAgree := by
  intro s m m' l l' h
  obtain ⟨⟨-, hset⟩, ⟨-, hclear⟩, ⟨-, htoggle⟩⟩ := setClearToggleWriteTheWholeMask
  obtain ⟨⟨-, hset'⟩, ⟨-, hclear'⟩, ⟨-, htoggle'⟩⟩ := registerOutputsWriteTheRawPayload
  rw [hset s m l, hset' s m' l', hclear s m l, hclear' s m' l', htoggle s m l, htoggle' s m' l', ← h]
  exact ⟨rfl, rfl, rfl⟩

/-- Settles O25: on a legal mask both write the same 8 bits to the same register, and no mask gives the other values. -/
theorem maskAndRegisterPwmAgreeOnLegalMasks : Obligations.MaskAndRegisterPwmAgreeOnLegalMasks := by
  obtain ⟨⟨hstartShape, hstart⟩, ⟨hstopShape, hstop⟩⟩ := startStopPwmWriteTheShiftedMask
  obtain ⟨⟨-, hstart'⟩, ⟨-, hstop'⟩⟩ := registerPwmWritesTheRawPayload
  constructor
  · intro s m m' l l' j hj1 hj15 hm hl
    have hframe (addr : Byte) : frameOf8 s.params addr j = frameOf8 s.params addr l'.toNat :=
      frameOf8_inj.2 ⟨rfl, by omega⟩
    rw [(hstart s m l).1 j hj1 hj15 hm, hstart' s m' l', (hstop s m l).1 j hj1 hj15 hm, hstop' s m' l', hframe, hframe]
    exact ⟨rfl, rfl⟩
  · intro s m m' sh l l' hl
    obtain ⟨t, ht, hne⟩ := exists_frame_ne_frameOf8 hstartShape hstart hl s sh m l
    obtain ⟨t', ht', hne'⟩ := exists_frame_ne_frameOf8 hstopShape hstop hl s sh m l
    exact ⟨t, _, t', _, ht, hstart' s m' l', hne, rfl, ht', hstop' s m' l', hne', rfl⟩

/-- Settles O26: each of the three kinds has an address of its own, and the mask is written whole. -/
theorem multiSelectFrameTellsKindAndMask : Obligations.MultiSelectFrameTellsKindAndMask := by
  intro k hk k' hk' s m m' l l'
  have hclass : ∀ k ∈ [Kind.setOutput, .clearOutput, .toggleOutput], legalityClass k = .multiSelect := by decide
  obtain ⟨addr, ha, h⟩ := exec_multiSelect (hclass k hk) s m l
  obtain ⟨addr', ha', h'⟩ := exec_multiSelect (hclass k' hk') s m' l'
  refine ⟨_, _, h, h', fun hframe => ?_⟩
  obtain ⟨rfl, hm⟩ := frameOf16_inj.1 hframe
  have hkind : fixedAddress s.params k = fixedAddress s.params k' → k = k' := by
    simp only [List.mem_cons, List.not_mem_nil, or_false] at hk hk'
    obtain rfl | rfl | rfl := hk <;> obtain rfl | rfl | rfl := hk' <;> simp [fixedAddress]
  have := m.isLt
  have := m'.isLt
  exact ⟨hkind (ha.trans ha'.symm), BitVec.eq_of_toNat_eq (by omega)⟩

/-- Settles O27: the frame tells the address and the payload; the address tells the mask where each port has a register
of its own, and cannot tell it where two ports share one. -/
theorem exactlyOneFrameTellsThePayload : Obligations.ExactlyOneFrameTellsThePayload := by
  constructor
  · intro k hk s t t' m m' l l' hexec hexec' hok hframe
    have hclass : ∀ k ∈ [Kind.pwmFrequency, .pulsePeriod, .ledCurrent, .colorsRgb], legalityClass k = .exactlyOne := by
      decide
    obtain ⟨-, h⟩ | ⟨addr, ha, h⟩ := exec_requiredShape_cases k m l s
    · obtain rfl := Host.Outcome.next.inj (h.symm.trans hexec)
      cases hok
    obtain rfl := Host.Outcome.next.inj (h.symm.trans hexec)
    obtain ⟨-, h'⟩ | ⟨addr', ha', h'⟩ := exec_requiredShape_cases k m' l' s
    · obtain rfl := Host.Outcome.next.inj (h'.symm.trans hexec')
      exact absurd hframe (serialize_ne_nil _ _ _ _ _)
    obtain rfl := Host.Outcome.next.inj (h'.symm.trans hexec')
    rw [afterFrame_frame, afterFrame_frame, serialize_exactlyOne (hclass k hk) _ _ m m', serialize_eq_iff] at hframe
    obtain ⟨rfl, hpayload⟩ := hframe
    exact ⟨hpayload, fun hk => mask_eq_of_legalAddress hk ha ha'⟩
  · intro s l hwf
    have hinj := bit_injective_of_wf hwf
    constructor
    · exact exec_of_same_address (k := .ledCurrent) (q := .led0) (q' := .led1) (addr := 86) rfl hinj
        (show _ ∈ ledCurrentRows by decide) (show _ ∈ ledCurrentRows by decide) l
    · intro h71
      exact exec_of_same_address (k := .pulsePeriod) (q := .digital2) (q' := .digital3) (addr := 71) rfl hinj
        (by simp [addressRows_pulsePeriod, pulsePeriodRows]) (by simp [addressRows_pulsePeriod, pulsePeriodRows, h71]) l

end Sys2Proof.Machine
end

section
/-! PROOFS. What a command's result does not depend on: payload lanes beyond the kind's (spec/30_encoding.md R64), the
mask of a register-direct kind (R65), and, but for one element of one frame, the parameter `ADDR_PULSE_DIGITAL3`
(spec/95_test_vectors.md P5). -/

namespace Sys2Proof.Machine

open Sys2Proof.Claims

/-! ### Payload lanes and mask -/

/-- The payload enters a result through the serializer alone. -/
theorem runStages_congr_payload {p : Params} {k : Kind} {m : Mask} {l l' : Lanes}
    (h : ∀ addr, serialize p k addr m l = serialize p k addr m l') (sh : Shape) :
    runStages p k sh m l = runStages p k sh m l' := by
  simp only [runStages, h]

theorem bit_ne_zero {t : PortTable} (ht : t.Wf) (q : Port) : t.bit q ≠ 0 := by
  obtain ⟨hbits, -⟩ := ht
  obtain ⟨i, hi⟩ := hbits q (by cases q <;> decide)
  have hne : ∀ i : Fin 14, BitVec.twoPow 16 i ≠ 0 := by decide
  exact hi ▸ hne i

theorem exists_mem_allowedPorts {k : Kind} (hk : legalityClass k = .exactlyOne) : ∃ q, q ∈ allowedPorts k := by
  cases k with
  | pwmFrequency | pulsePeriod => exact ⟨.digital0, by decide⟩
  | ledCurrent => exact ⟨.led0, by decide⟩
  | colorsRgb => exact ⟨.rgb0, by decide⟩
  | _ => cases hk

/-- A kind that tests its mask refuses the empty one and accepts some other. -/
theorem legal_zero_and_exists_legal {t : PortTable} {k : Kind} (ht : t.Wf)
    (hk : legalityClass k = .rangeRestricted ∨ legalityClass k = .exactlyOne) :
    legal t k 0 = false ∧ ∃ m, legal t k m = true := by
  obtain hk | hk := hk
  · have hlegal (m : Mask) : legal t k m = legalRange m := by simp [legal, hk]
    exact ⟨hlegal 0, 1024, hlegal 1024⟩
  · have hlegal (m : Mask) : legal t k m = true ↔ ∃ q ∈ allowedPorts k, m = t.bit q := by simp [legal, hk]
    obtain ⟨q, hq⟩ := exists_mem_allowedPorts hk
    refine ⟨Bool.eq_false_iff.2 fun h => ?_, t.bit q, (hlegal _).2 ⟨q, hq, rfl⟩⟩
    obtain ⟨q', -, h0⟩ := (hlegal 0).1 h
    exact bit_ne_zero ht q' h0.symm

/-- A mask that is accepted and one that is refused leave different frames. -/
theorem exists_frames_ne_of_legal {s : State} {k : Kind} {m m' : Mask} (hm : legal s.params.ports k m = true)
    (hm' : legal s.params.ports k m' = false) (l : Lanes) :
    ∃ t t', exec (instrOf k (requiredShape k) m l) s = .next t ∧
      exec (instrOf k (requiredShape k) m' l) s = .next t' ∧ t.frame ≠ t'.frame := by
  obtain ⟨addr, ha⟩ := exists_legalAddress_of_legal hm
  exact ⟨_, _, exec_of_legalAddress ha l, exec_of_no_address (legalAddress_eq_none.2 hm') l,
    serialize_ne_nil s.params k addr m l⟩

/-! ### The parameter `ADDR_PULSE_DIGITAL3` -/

/-- The parameters with `ADDR_PULSE_DIGITAL3` set to `a`. -/
def setPulseDigital3 (p : Params) (a : Byte) : Params := { p with addrPulseDigital3 := a }

section
variable {p : Params} {a : Byte} {k : Kind} {sh : Shape} {m : Mask} {l : Lanes}

theorem serialize_setPulseDigital3 (addr : Byte) :
    serialize (setPulseDigital3 p a) k addr m l = serialize p k addr m l := by
  cases k <;> rfl

theorem serialize_set_address (addr : Byte) :
    (serialize p k addr m l).set 3 (.byte a) = serialize p k a m l := by
  cases k <;> rfl

/-- The parameter stands in the one row of `Digital3` in PulsePeriod's table (R132). -/
theorem legalAddress_setPulseDigital3 (h : ¬ (k = .pulsePeriod ∧ m = p.ports.digital3)) :
    legalAddress (setPulseDigital3 p a) k m = legalAddress p k m := by
  cases k with
  | pulsePeriod =>
    have hm : m ≠ p.ports.bit .digital3 := fun e => h ⟨rfl, e⟩
    rw [legalAddress_exactlyOne rfl, legalAddress_exactlyOne rfl, addressRows_pulsePeriod, addressRows_pulsePeriod]
    simp [pulsePeriodRows, lookupPort, setPulseDigital3, hm]
  | pwmFrequency | ledCurrent | colorsRgb => rw [legalAddress_exactlyOne rfl, legalAddress_exactlyOne rfl]; rfl
  | _ => rfl

theorem runStages_setPulseDigital3 (h : ¬ (k = .pulsePeriod ∧ sh = .u16 ∧ m = p.ports.digital3)) :
    runStages (setPulseDigital3 p a) k sh m l = runStages p k sh m l := by
  by_cases hsh : sh = requiredShape k
  · subst hsh
    have haddr : legalAddress (setPulseDigital3 p a) k m = legalAddress p k m :=
      legalAddress_setPulseDigital3 fun ⟨hk, hm⟩ => h ⟨hk, by rw [hk]; rfl, hm⟩
    cases ha : legalAddress p k m with
    | none => rw [runStages_of_no_address (haddr.trans ha), runStages_of_no_address ha]
    | some addr =>
      rw [runStages_of_address (haddr.trans ha), runStages_of_address ha, serialize_setPulseDigital3]
  · rw [runStages_mismatch hsh, runStages_mismatch hsh]

theorem runStages_digital3 (hwf : p.ports.Wf) (hm : m = p.ports.digital3) :
    runStages p .pulsePeriod .u16 m l = .ok (serialize p .pulsePeriod p.addrPulseDigital3 m l) := by
  subst hm
  exact runStages_of_address (k := .pulsePeriod) (legalAddress_of_row (r := (.digital3, p.addrPulseDigital3)) rfl
    (bit_injective_of_wf hwf) (by simp [addressRows_pulsePeriod, pulsePeriodRows]))

end

/-! ### The statements -/

/-- Settles O29: the address the parameter gives is the one place it enters a result. -/
theorem pulseDigital3ParameterMovesOneElement : Obligations.PulseDigital3ParameterMovesOneElement := by
  intro s a i hwf
  refine ⟨_, _, exec_eq_resultOf i s, exec_eq_resultOf i _, ?_⟩
  have hparams : { s.params with addrPulseDigital3 := a } = setPulseDigital3 s.params a := rfl
  simp only [takeResult_status, takeResult_frame, hparams, resultOf]
  refine ⟨?status, ?digital3, ?others⟩
  case status => rw [runStages_status, runStages_status]; rfl
  case digital3 =>
    rintro ⟨hk, hsh, hm⟩
    rw [hk, hsh, runStages_digital3 (p := setPulseDigital3 s.params a) hwf hm, runStages_digital3 hwf hm]
    change serialize (setPulseDigital3 s.params a) .pulsePeriod a i.mask i.payload =
      (serialize s.params .pulsePeriod s.params.addrPulseDigital3 i.mask i.payload).set 3 (.byte a)
    rw [serialize_setPulseDigital3, serialize_set_address]
  case others => exact fun h => by rw [runStages_setPulseDigital3 h]

/-- Settles O37: the serializer reads the payload by the lanes the kind's shape has. -/
theorem unusedPayloadLanesAreIgnored : Obligations.UnusedPayloadLanesAreIgnored := by
  intro k sh m l l' s h
  rw [exec_instrOf, exec_instrOf,
    runStages_congr_payload fun addr => (serialize_eq_iff s.params k addr addr m l l').2 ⟨rfl, h⟩]

/-- Settles O38: the meanings of the six have no mask in them; of the other nine, the multi-select kinds write theirs, and
the kinds that test it refuse 0 and accept some mask. -/
theorem onlyRegisterDirectKindsIgnoreTheMask : Obligations.OnlyRegisterDirectKindsIgnoreTheMask := by
  constructor
  · intro k hk sh m m' l s
    simp only [List.mem_cons, List.not_mem_nil, or_false] at hk
    obtain rfl | rfl | rfl | rfl | rfl | rfl := hk <;> rfl
  · intro k hk s hwf
    have testing (h : legalityClass k = .rangeRestricted ∨ legalityClass k = .exactlyOne) :
        ∃ m m' l t t', exec (instrOf k (requiredShape k) m l) s = .next t ∧
          exec (instrOf k (requiredShape k) m' l) s = .next t' ∧ t.frame ≠ t'.frame := by
      obtain ⟨hzero, m, hm⟩ := legal_zero_and_exists_legal hwf h
      exact ⟨m, 0, 0, exists_frames_ne_of_legal hm hzero 0⟩
    cases hc : legalityClass k with
    | multiSelect =>
      obtain ⟨addr, -, h⟩ := exec_multiSelect hc s 0 0
      obtain ⟨addr', -, h'⟩ := exec_multiSelect hc s 1 0
      rw [requiredShape_multiSelect hc]
      exact ⟨0, 1, 0, _, _, h, h', fun e => absurd (frameOf16_inj.1 e).2 (by decide)⟩
    | rangeRestricted => exact testing (.inl hc)
    | exactlyOne => exact testing (.inr hc)
    | registerDirect => exact absurd hc hk

end Sys2Proof.Machine
end
